-- ==== Sys2Proof/Word.lean ====
section
/-! DEFINITION. The word types of the block: bytes, 32-bit register values and 41-bit transaction words. -/

namespace Sys2Proof

/-- A byte: 8 bits (R11). -/
abbrev Byte := BitVec 8

/-- A register value or the data of a bus transaction: 32 bits (R10). -/
abbrev Word := BitVec 32

/-- A bus transaction written as one word `T` of 41 bits: `W`, `A`, `D` (R80). -/
abbrev TWord := BitVec 41

end Sys2Proof
end

