-- ==== Sys2Proof/Config.lean ====
section
/-! DEFINITION. The implementation parameters of rule R8 as one configuration record, their legal ranges, and the values chosen for the block. -/

namespace Sys2Proof

/-- The free parameters of R8. -/
structure Config where
  /-- `HDR_CAP`, capacity of the header buffer in bytes. -/
  hdrCap : Nat
  /-- `PAY_CAP`, capacity of the payload buffer in bytes. -/
  payCap : Nat
  /-- `MSGID_OFFSET`, byte offset of the 16-bit message-id field in the header. -/
  msgidOffset : Nat
  /-- `MSGLEN_OFFSET`, byte offset of the 16-bit message-length field in the header. -/
  msglenOffset : Nat
  /-- `CMD_CAP`, capacity of the command buffer in bytes. -/
  cmdCap : Nat
  /-- `PAT_CAP`, capacity of the expected-reply pattern buffer in bytes. -/
  patCap : Nat
  /-- `TIMEOUT_MULT`, microseconds per budget unit. -/
  timeoutMult : Nat
deriving DecidableEq, Repr

/-- `HDR_MIN_LEN`, the smallest header length the decoder accepts: derived, not free (R8). -/
def Config.hdrMinLen (c : Config) : Nat := max c.msgidOffset c.msglenOffset + 2

/-- The legal ranges of R8, the two 2-byte fields not overlapping. -/
abbrev Config.Legal (c : Config) : Prop :=
  (c.hdrMinLen ≤ c.hdrCap ∧ c.hdrCap ≤ 255) ∧
  (1 ≤ c.payCap ∧ c.payCap ≤ 65535) ∧
  (4 ≤ c.msgidOffset ∧ c.msgidOffset ≤ 253) ∧
  (4 ≤ c.msglenOffset ∧ c.msglenOffset ≤ 253) ∧
  (c.msgidOffset + 2 ≤ c.msglenOffset ∨ c.msglenOffset + 2 ≤ c.msgidOffset) ∧
  (1 ≤ c.cmdCap ∧ c.cmdCap ≤ 255) ∧
  (1 ≤ c.patCap ∧ c.patCap ≤ 255) ∧
  (1 ≤ c.timeoutMult ∧ c.timeoutMult < 2 ^ 32)

/-- The values this spec chooses for the block (R8): those of `State.reset`. -/
def config : Config where
  hdrCap := 28
  payCap := 512
  msgidOffset := 4
  msglenOffset := 8
  cmdCap := 255
  patCap := 255
  timeoutMult := 1000

end Sys2Proof
end

