-- ==== Sys2Proof/Syntax.lean ====
section
/-! DEFINITION. The operations of the block: one constructor of `Instr` per row of the opcode table (R88, R91, R92), with its operands (R82 to R87). -/

namespace Sys2Proof

/-- The buffer that FBUF_SEL selects, bit 16 of the register: header or payload (R51, R85). -/
inductive BufSel where
  | hdr
  | pay
deriving DecidableEq, Repr

/-- The bit of FBUF_SEL that names the buffer: 0 header, 1 payload (R85). -/
def BufSel.bit : BufSel → Bool
  | .hdr => false
  | .pay => true

/-- One operation of the block: one bus transaction (R3, R80). -/
inductive Instr where
  /-- RD.CAPS0 (R220). -/
  | rdCaps0
  /-- RD.CAPS1 (R221). -/
  | rdCaps1
  /-- RD.CAPS2 (R222). -/
  | rdCaps2
  /-- RD.CAPS3 (R223). -/
  | rdCaps3
  /-- CTL.RESET (R224). -/
  | ctlReset
  /-- CTL.DECRST (R225). -/
  | ctlDecrst
  /-- CTL.CLRERR (R226). -/
  | ctlClrerr
  /-- CTL.CLRCNT (R227). -/
  | ctlClrcnt
  /-- RD.STATUS (R228). -/
  | rdStatus
  /-- CRC.SEED v (R103). -/
  | crcSeed (v : Word)
  /-- RD.CRC_VAL (R106). -/
  | rdCrcVal
  /-- CRC.BYTE b (R104). -/
  | crcByte (b : Byte)
  /-- DEC.BYTE b (R121). -/
  | decByte (b : Byte)
  /-- RD.DEC_RESULT (R139). -/
  | rdDecResult
  /-- RD.DEC_STATUS (R140). -/
  | rdDecStatus
  /-- RD.DEC_READ (R142). -/
  | rdDecRead
  /-- RD.DEC_MSGINFO (R141). -/
  | rdDecMsginfo
  /-- RD.DEC_RXCRC (R143). -/
  | rdDecRxcrc
  /-- RD.DEC_CALCCRC (R144). -/
  | rdDecCalccrc
  /-- FBUF.SEL buf, idx (R145). -/
  | fbufSel (buf : BufSel) (idx : BitVec 16)
  /-- RD.FBUF_SEL (R146). -/
  | rdFbufSel
  /-- RD.FBUF_DATA (R147). -/
  | rdFbufData
  /-- RD.BADCRC_CNT (R148). -/
  | rdBadcrcCnt
  /-- RD.DROP_CNT (R149). -/
  | rdDropCnt
  /-- ARB.START (R175). -/
  | arbStart
  /-- ARB.ABORT (R176). -/
  | arbAbort
  /-- ARB.IOERR (R177). -/
  | arbIoerr
  /-- ARB.CLRCMD (R178). -/
  | arbClrcmd
  /-- ARB.CLRPAT (R179). -/
  | arbClrpat
  /-- RD.ARB_STATUS (R186). -/
  | rdArbStatus
  /-- ARB.BUDGET v (R180). -/
  | arbBudget (v : Word)
  /-- RD.ARB_BUDGET (R187). -/
  | rdArbBudget
  /-- ARB.TRIES n (R181). -/
  | arbTries (n : Byte)
  /-- RD.ARB_TRIES (R188). -/
  | rdArbTries
  /-- ARB.CMD b (R182). -/
  | arbCmd (b : Byte)
  /-- ARB.PAT b (R183). -/
  | arbPat (b : Byte)
  /-- ARB.RX b (R184). -/
  | arbRx (b : Byte)
  /-- ARB.TICK d (R185). -/
  | arbTick (d : Word)
  /-- RD.ARB_LEN (R189). -/
  | rdArbLen
  /-- RD.ARB_ELAPSED_LO (R190). -/
  | rdArbElapsedLo
  /-- RD.ARB_ELAPSED_HI (R191). -/
  | rdArbElapsedHi
  /-- The fallback row WR.ILLEGAL: a write of data `d` to address `a` that matches no legal row (R89, R91). -/
  | wrIllegal (a : Byte) (d : Word)
  /-- The fallback row RD.ZERO: a read of address `a` that matches no legal row (R90, R92). -/
  | rdZero (a : Byte)
deriving DecidableEq, Repr

/-- The row's mnemonic as the opcode table spells it. -/
def Instr.mnemonic : Instr → String
  | .rdCaps0 => "RD.CAPS0"
  | .rdCaps1 => "RD.CAPS1"
  | .rdCaps2 => "RD.CAPS2"
  | .rdCaps3 => "RD.CAPS3"
  | .ctlReset => "CTL.RESET"
  | .ctlDecrst => "CTL.DECRST"
  | .ctlClrerr => "CTL.CLRERR"
  | .ctlClrcnt => "CTL.CLRCNT"
  | .rdStatus => "RD.STATUS"
  | .crcSeed _ => "CRC.SEED"
  | .rdCrcVal => "RD.CRC_VAL"
  | .crcByte _ => "CRC.BYTE"
  | .decByte _ => "DEC.BYTE"
  | .rdDecResult => "RD.DEC_RESULT"
  | .rdDecStatus => "RD.DEC_STATUS"
  | .rdDecRead => "RD.DEC_READ"
  | .rdDecMsginfo => "RD.DEC_MSGINFO"
  | .rdDecRxcrc => "RD.DEC_RXCRC"
  | .rdDecCalccrc => "RD.DEC_CALCCRC"
  | .fbufSel _ _ => "FBUF.SEL"
  | .rdFbufSel => "RD.FBUF_SEL"
  | .rdFbufData => "RD.FBUF_DATA"
  | .rdBadcrcCnt => "RD.BADCRC_CNT"
  | .rdDropCnt => "RD.DROP_CNT"
  | .arbStart => "ARB.START"
  | .arbAbort => "ARB.ABORT"
  | .arbIoerr => "ARB.IOERR"
  | .arbClrcmd => "ARB.CLRCMD"
  | .arbClrpat => "ARB.CLRPAT"
  | .rdArbStatus => "RD.ARB_STATUS"
  | .arbBudget _ => "ARB.BUDGET"
  | .rdArbBudget => "RD.ARB_BUDGET"
  | .arbTries _ => "ARB.TRIES"
  | .rdArbTries => "RD.ARB_TRIES"
  | .arbCmd _ => "ARB.CMD"
  | .arbPat _ => "ARB.PAT"
  | .arbRx _ => "ARB.RX"
  | .arbTick _ => "ARB.TICK"
  | .rdArbLen => "RD.ARB_LEN"
  | .rdArbElapsedLo => "RD.ARB_ELAPSED_LO"
  | .rdArbElapsedHi => "RD.ARB_ELAPSED_HI"
  | .wrIllegal _ _ => "WR.ILLEGAL"
  | .rdZero _ => "RD.ZERO"

/-- Whether the operation is a bus write (`W = 1`, R80). -/
def Instr.isWrite : Instr → Bool
  | .ctlReset | .ctlDecrst | .ctlClrerr | .ctlClrcnt => true
  | .crcSeed _ | .crcByte _ | .decByte _ | .fbufSel _ _ => true
  | .arbStart | .arbAbort | .arbIoerr | .arbClrcmd | .arbClrpat => true
  | .arbBudget _ | .arbTries _ | .arbCmd _ | .arbPat _ | .arbRx _ | .arbTick _ => true
  | .wrIllegal _ _ => true
  | .rdCaps0 | .rdCaps1 | .rdCaps2 | .rdCaps3 | .rdStatus | .rdCrcVal => false
  | .rdDecResult | .rdDecStatus | .rdDecRead | .rdDecMsginfo | .rdDecRxcrc | .rdDecCalccrc => false
  | .rdFbufSel | .rdFbufData | .rdBadcrcCnt | .rdDropCnt => false
  | .rdArbStatus | .rdArbBudget | .rdArbTries | .rdArbLen | .rdArbElapsedLo | .rdArbElapsedHi => false
  | .rdZero _ => false

end Sys2Proof
end

