-- ==== Sys2Proof/WellFormed.lean ====
section
/-! DEFINITION. The register map (R38) and which operations are well-formed: only the two fallback rows carry a condition, that no legal row takes their transaction (R81, R89, R90). -/

namespace Sys2Proof

/-- How the host may reach a register (R38). -/
inductive Access where
  /-- Read-only. -/
  | ro
  /-- Write-only. -/
  | wo
  /-- Read-write. -/
  | rw
deriving DecidableEq, Repr

/-- One row of the register map: offset, name, access (R38). -/
structure Register where
  offset : Byte
  name : String
  access : Access
deriving DecidableEq, Repr

/-- The control and CRC registers (R38). -/
def controlRegisters : List Register :=
  [ ⟨0x00, "CAPS0", .ro⟩, ⟨0x04, "CAPS1", .ro⟩, ⟨0x08, "CAPS2", .ro⟩, ⟨0x0C, "CAPS3", .ro⟩,
    ⟨0x10, "CTRL", .wo⟩, ⟨0x14, "STATUS", .ro⟩, ⟨0x20, "CRC_VAL", .rw⟩, ⟨0x24, "CRC_DATA", .wo⟩ ]

/-- The decoder registers (R38). -/
def decoderRegisters : List Register :=
  [ ⟨0x40, "DEC_DATA", .wo⟩, ⟨0x44, "DEC_RESULT", .ro⟩, ⟨0x48, "DEC_STATUS", .ro⟩, ⟨0x4C, "DEC_READ", .ro⟩,
    ⟨0x50, "DEC_MSGINFO", .ro⟩, ⟨0x54, "DEC_RXCRC", .ro⟩, ⟨0x58, "DEC_CALCCRC", .ro⟩, ⟨0x5C, "FBUF_SEL", .rw⟩,
    ⟨0x60, "FBUF_DATA", .ro⟩, ⟨0x64, "BADCRC_CNT", .ro⟩, ⟨0x68, "DROP_CNT", .ro⟩ ]

/-- The arbiter registers (R38). -/
def arbiterRegisters : List Register :=
  [ ⟨0x80, "ARB_CTRL", .wo⟩, ⟨0x84, "ARB_STATUS", .ro⟩, ⟨0x88, "ARB_BUDGET", .rw⟩, ⟨0x8C, "ARB_TRIES", .rw⟩,
    ⟨0x90, "ARB_CMD_DATA", .wo⟩, ⟨0x94, "ARB_PAT_DATA", .wo⟩, ⟨0x98, "ARB_RX", .wo⟩, ⟨0x9C, "ARB_TICK", .wo⟩,
    ⟨0xA0, "ARB_LEN", .ro⟩, ⟨0xA4, "ARB_ELAPSED_LO", .ro⟩, ⟨0xA8, "ARB_ELAPSED_HI", .ro⟩ ]

/-- The 30 entries of the register map (R38). -/
def registerMap : List Register := controlRegisters ++ decoderRegisters ++ arbiterRegisters

/-- The access right of an address: none where no register stands (R38, R64). -/
def accessOf (a : Byte) : Option Access := (registerMap.find? fun r => r.offset == a).map Register.access

/-- A misaligned address: `A[1:0] != 0` (R63). -/
def misaligned (a : Byte) : Bool := a.extractLsb' 0 2 != 0

/-- An aligned address at which no register stands (R64). -/
def unmapped (a : Byte) : Bool := !misaligned a && accessOf a == none

/-- The address of a register that is read-only (R65). -/
def readOnly (a : Byte) : Bool := accessOf a == some .ro

/-- The registers of the byte and tries forms, whose bits 31:8 are reserved (R82, R86). -/
def byteFormOffsets : List Byte := [0x24, 0x40, 0x8C, 0x90, 0x94, 0x98]

/-- A non-zero reserved field in a byte-form, tries-form or buffer-select-form write (R89 (d)). -/
def reservedSet (a : Byte) (d : Word) : Bool :=
  (byteFormOffsets.contains a && d.extractLsb' 8 24 != 0) || (a == 0x5C && d.extractLsb' 17 15 != 0)

/-- A command register with data that is not one of its one-hot values (R84, R89 (e)). -/
def notOneHot (a : Byte) (d : Word) : Bool :=
  (a == 0x10 && !([0x1, 0x2, 0x4, 0x8] : List Word).contains d) ||
  (a == 0x80 && !([0x01, 0x02, 0x04, 0x08, 0x10] : List Word).contains d)

/-- The illegal writes: the five cases (a) to (e) of R89. -/
def illegalWrite (a : Byte) (d : Word) : Bool :=
  misaligned a || unmapped a || readOnly a || reservedSet a d || notOneHot a d

/-- The reads that match no legal row: misaligned, unmapped, or a write-only register (R90). -/
def zeroRead (a : Byte) : Bool := misaligned a || unmapped a || accessOf a == some .wo

/-- Well-formed operations: those some transaction word selects (R81). Every operand of a legal row fits its
field by its type; a fallback row carries only transactions that no legal row takes. -/
def Instr.wellFormed : Instr → Bool
  | .wrIllegal a d => illegalWrite a d
  | .rdZero a => zeroRead a
  | _ => true

end Sys2Proof
end

