-- ==== Sys2Proof/Decode.lean ====
section
/-! DEFINITION. Decoding and encoding of transaction words (30_encoding.md): the fields of `T` (R80), the decoder by operand form (R82 to R92), the encoder, the opcode table as mask and match rows (R81), and the host's `decodeTableWord`. -/

namespace Sys2Proof

/-! ## The transaction word (R80) -/

/-- `T` from its fields: `W` in bit 40, `A` in bits 39:32, `D` in bits 31:0 (R80). -/
def tword (w : Bool) (a : Byte) (d : Word) : TWord := BitVec.ofBool w ++ a ++ d

/-- `W = T[40]`: 1 for a bus write (R80). -/
def TWord.w (t : TWord) : Bool := t.getLsbD 40

/-- `A = T[39:32]` (R80). -/
def TWord.a (t : TWord) : Byte := t.extractLsb' 32 8

/-- `D = T[31:0]` (R80). -/
def TWord.d (t : TWord) : Word := t.extractLsb' 0 32

/-! ## Operand fields of `D` -/

/-- The operand byte `D[7:0]` of the byte and tries forms (R82, R86). -/
def operandByte (d : Word) : Byte := d.extractLsb' 0 8

/-- The reserved field `D[31:8]` of the byte and tries forms (R82, R86). -/
def reservedHigh24 (d : Word) : BitVec 24 := d.extractLsb' 8 24

/-- The reserved field `D[31:17]` of the buffer-select form (R85). -/
def reservedHigh15 (d : Word) : BitVec 15 := d.extractLsb' 17 15

/-- The byte index `D[15:0]` of the buffer-select form (R85). -/
def operandIndex (d : Word) : BitVec 16 := d.extractLsb' 0 16

/-- The buffer `D[16]` of the buffer-select form (R85). -/
def operandBuf (d : Word) : BufSel := if d.getLsbD 16 then .pay else .hdr

/-- `D` of a byte or tries form: `zext_32(b)` (R82, R86). -/
def byteData (b : Byte) : Word := b.zeroExtend 32

/-- `D` of the buffer-select form: the index in bits 15:0, the buffer in bit 16 (R85, R145). -/
def fbufData (buf : BufSel) (idx : BitVec 16) : Word :=
  ((BitVec.ofBool buf.bit).zeroExtend 32 <<< 16) ||| idx.zeroExtend 32

/-! ## The decoder -/

/-- A byte-form write: the operation `op b`, or WR.ILLEGAL if a reserved bit is set (R82). -/
def decodeByteForm (op : Byte → Instr) (a : Byte) (d : Word) : Instr :=
  if reservedHigh24 d = 0 then op (operandByte d) else .wrIllegal a d

/-- A write to CTRL: exactly one of the one-hot values (R84, R229). -/
def decodeCtrl (a : Byte) (d : Word) : Instr :=
  if d = 0x1 then .ctlReset
  else if d = 0x2 then .ctlDecrst
  else if d = 0x4 then .ctlClrerr
  else if d = 0x8 then .ctlClrcnt
  else .wrIllegal a d

/-- A write to ARB_CTRL: exactly one of the one-hot values (R84, R229). -/
def decodeArbCtrl (a : Byte) (d : Word) : Instr :=
  if d = 0x01 then .arbStart
  else if d = 0x02 then .arbAbort
  else if d = 0x04 then .arbIoerr
  else if d = 0x08 then .arbClrcmd
  else if d = 0x10 then .arbClrpat
  else .wrIllegal a d

/-- A bus write of `d` to `a` (R88, R89, R91). -/
def decodeWrite (a : Byte) (d : Word) : Instr :=
  if a = 0x10 then decodeCtrl a d
  else if a = 0x20 then .crcSeed d
  else if a = 0x24 then decodeByteForm .crcByte a d
  else if a = 0x40 then decodeByteForm .decByte a d
  else if a = 0x5C then
    if reservedHigh15 d = 0 then .fbufSel (operandBuf d) (operandIndex d) else .wrIllegal a d
  else if a = 0x80 then decodeArbCtrl a d
  else if a = 0x88 then .arbBudget d
  else if a = 0x8C then decodeByteForm .arbTries a d
  else if a = 0x90 then decodeByteForm .arbCmd a d
  else if a = 0x94 then decodeByteForm .arbPat a d
  else if a = 0x98 then decodeByteForm .arbRx a d
  else if a = 0x9C then .arbTick d
  else .wrIllegal a d

/-- A bus read of `a`; the data field is ignored (R87, R90, R92). -/
def decodeRead (a : Byte) : Instr :=
  if a = 0x00 then .rdCaps0
  else if a = 0x04 then .rdCaps1
  else if a = 0x08 then .rdCaps2
  else if a = 0x0C then .rdCaps3
  else if a = 0x14 then .rdStatus
  else if a = 0x20 then .rdCrcVal
  else if a = 0x44 then .rdDecResult
  else if a = 0x48 then .rdDecStatus
  else if a = 0x4C then .rdDecRead
  else if a = 0x50 then .rdDecMsginfo
  else if a = 0x54 then .rdDecRxcrc
  else if a = 0x58 then .rdDecCalccrc
  else if a = 0x5C then .rdFbufSel
  else if a = 0x60 then .rdFbufData
  else if a = 0x64 then .rdBadcrcCnt
  else if a = 0x68 then .rdDropCnt
  else if a = 0x84 then .rdArbStatus
  else if a = 0x88 then .rdArbBudget
  else if a = 0x8C then .rdArbTries
  else if a = 0xA0 then .rdArbLen
  else if a = 0xA4 then .rdArbElapsedLo
  else if a = 0xA8 then .rdArbElapsedHi
  else .rdZero a

/-- The operation a transaction word selects: total on all `2^41` words (R81). -/
def decode (t : TWord) : Instr := if TWord.w t then decodeWrite (TWord.a t) (TWord.d t) else decodeRead (TWord.a t)

/-! ## The encoder -/

/-- A bus read's word: the data field is ignored, and the model passes 0 (R80, R87). -/
def encodeRead (a : Byte) : TWord := tword false a 0

/-- The transaction word of an operation (R80, R82 to R88). -/
def encode : Instr → TWord
  | .rdCaps0 => encodeRead 0x00
  | .rdCaps1 => encodeRead 0x04
  | .rdCaps2 => encodeRead 0x08
  | .rdCaps3 => encodeRead 0x0C
  | .ctlReset => tword true 0x10 0x1
  | .ctlDecrst => tword true 0x10 0x2
  | .ctlClrerr => tword true 0x10 0x4
  | .ctlClrcnt => tword true 0x10 0x8
  | .rdStatus => encodeRead 0x14
  | .crcSeed v => tword true 0x20 v
  | .rdCrcVal => encodeRead 0x20
  | .crcByte b => tword true 0x24 (byteData b)
  | .decByte b => tword true 0x40 (byteData b)
  | .rdDecResult => encodeRead 0x44
  | .rdDecStatus => encodeRead 0x48
  | .rdDecRead => encodeRead 0x4C
  | .rdDecMsginfo => encodeRead 0x50
  | .rdDecRxcrc => encodeRead 0x54
  | .rdDecCalccrc => encodeRead 0x58
  | .fbufSel buf idx => tword true 0x5C (fbufData buf idx)
  | .rdFbufSel => encodeRead 0x5C
  | .rdFbufData => encodeRead 0x60
  | .rdBadcrcCnt => encodeRead 0x64
  | .rdDropCnt => encodeRead 0x68
  | .arbStart => tword true 0x80 0x01
  | .arbAbort => tword true 0x80 0x02
  | .arbIoerr => tword true 0x80 0x04
  | .arbClrcmd => tword true 0x80 0x08
  | .arbClrpat => tword true 0x80 0x10
  | .rdArbStatus => encodeRead 0x84
  | .arbBudget v => tword true 0x88 v
  | .rdArbBudget => encodeRead 0x88
  | .arbTries n => tword true 0x8C (byteData n)
  | .rdArbTries => encodeRead 0x8C
  | .arbCmd b => tword true 0x90 (byteData b)
  | .arbPat b => tword true 0x94 (byteData b)
  | .arbRx b => tword true 0x98 (byteData b)
  | .arbTick d => tword true 0x9C d
  | .rdArbLen => encodeRead 0xA0
  | .rdArbElapsedLo => encodeRead 0xA4
  | .rdArbElapsedHi => encodeRead 0xA8
  | .wrIllegal a d => tword true a d
  | .rdZero a => encodeRead a

/-! ## The opcode table as rule R81 reads it -/

/-- One legal row of the opcode table: `T` selects the row when `(T & mask) == match` (R81). -/
structure OpcodeRow where
  mnemonic : String
  mask : TWord
  value : TWord
deriving DecidableEq, Repr

/-- Whether a transaction word selects the row (R81). -/
def rowSelects (r : OpcodeRow) (t : TWord) : Bool := t &&& r.mask == r.value

/-- The block control and CRC rows of the opcode table (R88). -/
def controlRows : List OpcodeRow :=
  [ ⟨"RD.CAPS0", 0x1FF00000000, 0x00000000000⟩,
    ⟨"RD.CAPS1", 0x1FF00000000, 0x00400000000⟩,
    ⟨"RD.CAPS2", 0x1FF00000000, 0x00800000000⟩,
    ⟨"RD.CAPS3", 0x1FF00000000, 0x00C00000000⟩,
    ⟨"CTL.RESET", 0x1FFFFFFFFFF, 0x11000000001⟩,
    ⟨"CTL.DECRST", 0x1FFFFFFFFFF, 0x11000000002⟩,
    ⟨"CTL.CLRERR", 0x1FFFFFFFFFF, 0x11000000004⟩,
    ⟨"CTL.CLRCNT", 0x1FFFFFFFFFF, 0x11000000008⟩,
    ⟨"RD.STATUS", 0x1FF00000000, 0x01400000000⟩,
    ⟨"CRC.SEED", 0x1FF00000000, 0x12000000000⟩,
    ⟨"RD.CRC_VAL", 0x1FF00000000, 0x02000000000⟩,
    ⟨"CRC.BYTE", 0x1FFFFFFFF00, 0x12400000000⟩ ]

/-- The decoder rows of the opcode table (R88). -/
def decoderRows : List OpcodeRow :=
  [ ⟨"DEC.BYTE", 0x1FFFFFFFF00, 0x14000000000⟩,
    ⟨"RD.DEC_RESULT", 0x1FF00000000, 0x04400000000⟩,
    ⟨"RD.DEC_STATUS", 0x1FF00000000, 0x04800000000⟩,
    ⟨"RD.DEC_READ", 0x1FF00000000, 0x04C00000000⟩,
    ⟨"RD.DEC_MSGINFO", 0x1FF00000000, 0x05000000000⟩,
    ⟨"RD.DEC_RXCRC", 0x1FF00000000, 0x05400000000⟩,
    ⟨"RD.DEC_CALCCRC", 0x1FF00000000, 0x05800000000⟩,
    ⟨"FBUF.SEL", 0x1FFFFFE0000, 0x15C00000000⟩,
    ⟨"RD.FBUF_SEL", 0x1FF00000000, 0x05C00000000⟩,
    ⟨"RD.FBUF_DATA", 0x1FF00000000, 0x06000000000⟩,
    ⟨"RD.BADCRC_CNT", 0x1FF00000000, 0x06400000000⟩,
    ⟨"RD.DROP_CNT", 0x1FF00000000, 0x06800000000⟩ ]

/-- The arbiter rows of the opcode table (R88). -/
def arbiterRows : List OpcodeRow :=
  [ ⟨"ARB.START", 0x1FFFFFFFFFF, 0x18000000001⟩,
    ⟨"ARB.ABORT", 0x1FFFFFFFFFF, 0x18000000002⟩,
    ⟨"ARB.IOERR", 0x1FFFFFFFFFF, 0x18000000004⟩,
    ⟨"ARB.CLRCMD", 0x1FFFFFFFFFF, 0x18000000008⟩,
    ⟨"ARB.CLRPAT", 0x1FFFFFFFFFF, 0x18000000010⟩,
    ⟨"RD.ARB_STATUS", 0x1FF00000000, 0x08400000000⟩,
    ⟨"ARB.BUDGET", 0x1FF00000000, 0x18800000000⟩,
    ⟨"RD.ARB_BUDGET", 0x1FF00000000, 0x08800000000⟩,
    ⟨"ARB.TRIES", 0x1FFFFFFFF00, 0x18C00000000⟩,
    ⟨"RD.ARB_TRIES", 0x1FF00000000, 0x08C00000000⟩,
    ⟨"ARB.CMD", 0x1FFFFFFFF00, 0x19000000000⟩,
    ⟨"ARB.PAT", 0x1FFFFFFFF00, 0x19400000000⟩,
    ⟨"ARB.RX", 0x1FFFFFFFF00, 0x19800000000⟩,
    ⟨"ARB.TICK", 0x1FF00000000, 0x19C00000000⟩,
    ⟨"RD.ARB_LEN", 0x1FF00000000, 0x0A000000000⟩,
    ⟨"RD.ARB_ELAPSED_LO", 0x1FF00000000, 0x0A400000000⟩,
    ⟨"RD.ARB_ELAPSED_HI", 0x1FF00000000, 0x0A800000000⟩ ]

/-- The 41 legal rows of the opcode table, in the table's order (R81, R88). -/
def opcodeTable : List OpcodeRow := controlRows ++ decoderRows ++ arbiterRows

/-! ## Words as numbers -/

/-- Why a number is no transaction. -/
inductive DecodeError where
  /-- The number does not fit the 41 bits of a transaction word (R80). -/
  | notATransactionWord
deriving DecidableEq, Repr

/-- The operation that the number `n` encodes: a number of more than 41 bits is rejected by name (R80, R81). -/
def decodeNat (n : Nat) : Except DecodeError Instr :=
  if n < 2 ^ 41 then .ok (decode (BitVec.ofNat 41 n)) else .error .notATransactionWord

/-- The number whose low `nbits` bits are those of `w`, every bit above them 0. -/
def tableBits (nbits w : Nat) : Nat := w % 2 ^ nbits

/-- The operation the decoder reads from a row's word of the opcode table: bit 0 of `w` is `T[0]` (R80). -/
def decodeTableWord (nbits w : Nat) : Option Instr :=
  match decodeNat (tableBits nbits w) with
  | .ok i => some i
  | .error _ => none

end Sys2Proof
end

