-- ==== Sys2Proof/Machine/State.lean ====
section
/-! DEFINITION. The state of the machine as plain data: the block's state tuple (R20) as `Block`, beside it the parameters of the build (R8) and, as the model's own fields, the outputs of the last operation and the host's pending transactions; the reset values (R58); the reasons a step can stop. -/

namespace Sys2Proof.Machine

open Sys2Proof

/-- An internal byte buffer as (index, byte) cells in canonical form: indices strictly rising, no cell equal to
0x00, which every unlisted index reads as (the reset contents, R58). `Memory.wf` in Ops.lean says the form. -/
abbrev Memory := List Host.Cell

/-- The ten decoder states (R24). -/
inductive DState where
  | sync1
  | sync2
  | sync3
  | hdrlen
  | hdr
  | pay
  | ck1
  | ck2
  | ck3
  | ck4
deriving DecidableEq, Repr

/-- The six arbiter states (R30). -/
inductive AState where
  | idle
  | wait
  | success
  | timeout
  | ioerr
  | aborted
deriving DecidableEq, Repr

/-- The frame decoder's state (R20, R24 to R29). -/
structure Decoder where
  /-- `dstate` (R24). -/
  dstate : DState
  /-- `read`, header plus payload bytes stored so far (R25). -/
  read : Word
  /-- `hdr_len` (R25). -/
  hdrLen : Byte
  /-- `msg_len` (R25). -/
  msgLen : BitVec 16
  /-- `rx_crc`, the received trailer (R25). -/
  rxCrc : Word
  /-- `calc_crc`, the CRC computed at the most recent CK4 byte (R25). -/
  calcCrc : Word
  /-- `frame_valid` (R25). -/
  frameValid : Bool
  /-- `dec_result`, what the most recent DEC.BYTE returned (R25). -/
  decResult : Word
  /-- `hdr[0..HDR_CAP)` (R26). -/
  hdr : Memory
  /-- `pay[0..PAY_CAP)` (R27). -/
  pay : Memory
  /-- `fsel` (R28). -/
  fsel : BitVec 17
  /-- `badcrc_cnt` (R29). -/
  badcrcCnt : Word
  /-- `drop_cnt` (R29). -/
  dropCnt : Word
deriving DecidableEq, Repr

/-- The command arbiter's state (R20, R30 to R34). -/
structure Arbiter where
  /-- `astate` (R30). -/
  astate : AState
  /-- `budget`, in units of `TIMEOUT_MULT` microseconds (R31). -/
  budget : Word
  /-- `max_tries` (R31). -/
  maxTries : Byte
  /-- `cmd[0..CMD_CAP)` (R32). -/
  cmd : Memory
  /-- `cmd_len` (R32). -/
  cmdLen : Byte
  /-- `pat[0..PAT_CAP)` (R33). -/
  pat : Memory
  /-- `pat_len` (R33). -/
  patLen : Byte
  /-- `attempts` (R34). -/
  attempts : Byte
  /-- `match_len` (R34). -/
  matchLen : Byte
  /-- `elapsed`, microseconds since the current attempt sent its command, saturating (R34). -/
  elapsed : BitVec 64
deriving DecidableEq, Repr

/-- The four sticky error bits (R35). -/
structure Sticky where
  /-- `st_illop`. -/
  illop : Bool
  /-- `st_cmdovf`. -/
  cmdovf : Bool
  /-- `st_patovf`. -/
  patovf : Bool
  /-- `st_busy`. -/
  busy : Bool
deriving DecidableEq, Repr

/-- The complete state of the block: exactly the elements of R20. -/
structure Block where
  /-- `crc`, the running register of the CRC-32 generator (R23). -/
  crc : Word
  /-- The decoder's elements. -/
  dec : Decoder
  /-- The arbiter's elements. -/
  arb : Arbiter
  /-- The control unit's elements. -/
  sticky : Sticky
deriving DecidableEq, Repr

/-- The six error and event kinds (R240). -/
inductive Event where
  /-- Code 1: a write that matches no legal row (R241). -/
  | illegalAccess
  /-- Code 2: a configuration write or ARB.START while the arbiter waits (R242). -/
  | busyReject
  /-- Code 3: ARB.CMD with a full command buffer (R243). -/
  | overflowCmd
  /-- Code 4: ARB.PAT with a full pattern buffer (R243). -/
  | overflowPat
  /-- Code 5: a CK4 byte whose CRC differs (R244). -/
  | badChecksum
  /-- Code 6: a byte rejected by the header-length check or a capacity guard (R244). -/
  | frameDrop
deriving DecidableEq, Repr

/-- What the most recent operation put out besides `tx` (R36, R240). The model's own field: the block keeps none of it. -/
structure Outputs where
  /-- The 32-bit value a read returned; none after a write (R60). -/
  rdata : Option Word
  /-- The `frame_done` pulse: 1 for exactly the DEC.BYTE that completes a frame (R36). -/
  frameDone : Bool
  /-- The error or event kind the operation raised or recorded, if any (R240). -/
  event : Option Event
deriving DecidableEq, Repr

/-- The machine: the parameters of its build (R8), the block (R20) and, as the model's own fields, its outputs and the
host's pending transactions. -/
structure State where
  /-- The parameters of the build (R8), any record of their legal ranges: constants that no operation writes and no reset
  changes (R220, R59; log entry 5). -/
  cfg : Config
  /-- The block's state tuple (R20). -/
  block : Block
  /-- The `tx` byte stream emitted so far, oldest byte first (R36, `emit_tx` of R13). -/
  tx : List Byte
  /-- What the most recent operation put out (R36). -/
  out : Outputs
  /-- The transactions the host has issued and the block has not yet performed, oldest first (R60, R73). -/
  bus : List TWord
deriving DecidableEq, Repr

/-- The internal byte buffers (R26, R27, R32, R33). -/
inductive Buf where
  | hdr
  | pay
  | cmd
  | pat
deriving DecidableEq, Repr

/-- Why a step can stop with a fault. Both are the model's: no state that a run from reset reaches raises either. -/
inductive Fault where
  /-- An internal access outside the capacity of a byte buffer: raised by DEC.BYTE, ARB.START, ARB.CMD, ARB.PAT, ARB.RX
  and ARB.TICK in states that no run reaches. Safe: the spec gives such an access no effect (log entry 7). -/
  | bufferIndex (b : Buf)
  /-- ARB.RX in WAIT with `match_len >= pat_len`, where R172 does not define the match step: raised by ARB.RX in states
  that no run reaches. Safe (log entry 8). -/
  | matchDomain
deriving DecidableEq, Repr

/-- Why a step can be refused. -/
inductive Refusal where
  /-- An instruction that has no meaning in the model, by its mnemonic: raised only by an arm of `exec`. Safe. -/
  | notModelled (mnemonic : String)
deriving DecidableEq, Repr

/-- The decoder's reset values (R58). -/
def Decoder.reset : Decoder where
  dstate := .sync1
  read := 0
  hdrLen := 0
  msgLen := 0
  rxCrc := 0
  calcCrc := 0
  frameValid := false
  decResult := 0
  hdr := []
  pay := []
  fsel := 0
  badcrcCnt := 0
  dropCnt := 0

/-- The arbiter's reset values (R58). -/
def Arbiter.reset : Arbiter where
  astate := .idle
  budget := 0
  maxTries := 1
  cmd := []
  cmdLen := 0
  pat := []
  patLen := 0
  attempts := 0
  matchLen := 0
  elapsed := 0

/-- The sticky bits' reset values (R58). -/
def Sticky.reset : Sticky where
  illop := false
  cmdovf := false
  patovf := false
  busy := false

/-- The block right after power-on reset or CTL.RESET: every element at its value of R58. -/
def Block.reset : Block where
  crc := 0
  dec := Decoder.reset
  arb := Arbiter.reset
  sticky := Sticky.reset

/-- The outputs of an operation that returns no value, pulses nothing and records nothing. -/
def Outputs.quiet : Outputs where
  rdata := none
  frameDone := false
  event := none

/-- A build with the parameters `c` right after power-on reset: the block at R58, nothing sent and no pulse (R59), no
transaction pending (DESIGN CHOICE for the model's own fields, log entries 1 and 3). -/
def State.resetOf (c : Config) : State where
  cfg := c
  block := Block.reset
  tx := []
  out := Outputs.quiet
  bus := []

/-- The machine right after power-on reset, at the parameters that the spec chooses for the block (R8). -/
def State.reset : State := State.resetOf config

end Sys2Proof.Machine
end

