-- ==== Sys2Proof/Machine/Flags.lean ====
section
/-! DEFINITION. The flags of the block: the sticky bits and STATUS (R35, R44, R228), the codes of the error and event kinds (R240), and the level outputs `arb_done` and `err` (R36). -/

namespace Sys2Proof.Machine

open Sys2Proof

/-- The code of an error or event kind (R240). -/
def Event.code : Event → Nat
  | .illegalAccess => 1
  | .busyReject => 2
  | .overflowCmd => 3
  | .overflowPat => 4
  | .badChecksum => 5
  | .frameDrop => 6

/-- The sticky bits after a raise of the kind: codes 1 to 4 set one bit each, codes 5 and 6 set none (R240 to R244). -/
def Sticky.record (k : Event) (f : Sticky) : Sticky :=
  match k with
  | .illegalAccess => { f with illop := true }
  | .busyReject => { f with busy := true }
  | .overflowCmd => { f with cmdovf := true }
  | .overflowPat => { f with patovf := true }
  | .badChecksum => f
  | .frameDrop => f

/-- A single bit as a 32-bit value: `zext_32` of one bit (R11). -/
def bitWord (b : Bool) : Word := (BitVec.ofBool b).zeroExtend 32

/-- The STATUS register: ILLOP in bit 0, CMD_OVF in bit 1, PAT_OVF in bit 2, BUSY_ERR in bit 3 (R44, R228). -/
def Sticky.status (f : Sticky) : Word :=
  bitWord f.illop ||| (bitWord f.cmdovf <<< 1) ||| (bitWord f.patovf <<< 2) ||| (bitWord f.busy <<< 3)

/-- Whether any sticky bit is set (R36). -/
def Sticky.any (f : Sticky) : Bool := f.illop || f.cmdovf || f.patovf || f.busy

/-- A terminal arbiter state: SUCCESS, TIMEOUT, IOERR or ABORTED (R30). -/
def AState.terminal : AState → Bool
  | .success | .timeout | .ioerr | .aborted => true
  | .idle | .wait => false

/-- The `arb_done` output: a level, 1 while the arbiter is in a terminal state (R36). -/
def State.arbDone (s : State) : Bool := s.block.arb.astate.terminal

/-- The `err` output: a level, 1 while any sticky bit is 1 (R36). -/
def State.err (s : State) : Bool := s.block.sticky.any

end Sys2Proof.Machine
end

