-- ==== Sys2Proof/Machine/Operands.lean ====
section
/-! DEFINITION. Operand forms and register views: the value the tries form stores (R86), the packing of register fields (R39 to R57), the codes of the state machines (R24, R30). -/

namespace Sys2Proof.Machine

open Sys2Proof

/-- The value ARB.TRIES stores: `n`, but 1 for 0 (R55, R86, R181). -/
def triesValue (n : Byte) : Byte := if n = 0 then 1 else n

/-- The value FBUF.SEL stores: `D[16:0]` of the operand form (R145). -/
def fselValue (buf : BufSel) (idx : BitVec 16) : BitVec 17 := (fbufData buf idx).extractLsb' 0 17

/-- A number as a register field at bit `pos`: `zext_32(n) << pos` (R11). -/
def natField (n pos : Nat) : Word := BitVec.ofNat 32 n <<< pos

/-- A value as a register field at bit `pos`: `zext_32(v) << pos` (R11). -/
def field {w : Nat} (v : BitVec w) (pos : Nat) : Word := v.zeroExtend 32 <<< pos

/-- The code of a decoder state in DEC_STATUS[3:0] (R24, R47). -/
def DState.code : DState → BitVec 4
  | .sync1 => 0
  | .sync2 => 1
  | .sync3 => 2
  | .hdrlen => 3
  | .hdr => 4
  | .pay => 5
  | .ck1 => 6
  | .ck2 => 7
  | .ck3 => 8
  | .ck4 => 9

/-- The code of an arbiter state in ARB_STATUS[2:0] (R30, R54). -/
def AState.code : AState → BitVec 3
  | .idle => 0
  | .wait => 1
  | .success => 2
  | .timeout => 3
  | .ioerr => 4
  | .aborted => 5

/-- CAPS0: HDR_CAP in bits 7:0, PAY_CAP in bits 23:8 (R39, R220). -/
def caps0 (c : Config) : Word := natField c.hdrCap 0 ||| natField c.payCap 8

/-- CAPS1: CMD_CAP in bits 7:0, PAT_CAP in bits 15:8 (R40, R221). -/
def caps1 (c : Config) : Word := natField c.cmdCap 0 ||| natField c.patCap 8

/-- CAPS2: TIMEOUT_MULT (R41, R222). -/
def caps2 (c : Config) : Word := natField c.timeoutMult 0

/-- CAPS3: MSGID_OFFSET in bits 7:0, MSGLEN_OFFSET in bits 15:8, HDR_MIN_LEN in bits 23:16 (R42, R223). -/
def caps3 (c : Config) : Word := natField c.msgidOffset 0 ||| natField c.msglenOffset 8 ||| natField c.hdrMinLen 16

/-- DEC_STATUS: the state's code in bits 3:0, FRAME_VALID in bit 4, `hdr_len` in bits 15:8 (R47, R140). -/
def Decoder.status (d : Decoder) : Word := field d.dstate.code 0 ||| (bitWord d.frameValid <<< 4) ||| field d.hdrLen 8

/-- ARB_STATUS: the state's code in bits 2:0, `attempts` in bits 15:8, `match_len` in bits 23:16 (R54, R186). -/
def Arbiter.status (a : Arbiter) : Word := field a.astate.code 0 ||| field a.attempts 8 ||| field a.matchLen 16

/-- ARB_LEN: `cmd_len` in bits 7:0, `pat_len` in bits 15:8 (R57, R189). -/
def Arbiter.lengths (a : Arbiter) : Word := field a.cmdLen 0 ||| field a.patLen 8

end Sys2Proof.Machine
end

