-- ==== Sys2Proof/Machine/Crc32.lean ====
section
/-! DEFINITION. The CRC-32 function of the block (R100 to R102): reflected polynomial, no inversion. -/

namespace Sys2Proof.Machine

open Sys2Proof

/-- The CRC polynomial in reflected form (R9). -/
def crcPoly : Word := 0xEDB88320

/-- One shift-and-conditional-XOR step (R100). -/
def crcShift (t : Word) : Word := if t.getLsbD 0 then (t >>> 1) ^^^ crcPoly else t >>> 1

/-- `n` shift steps (R100 repeats 8). -/
def crcShifts : Nat → Word → Word
  | 0, t => t
  | n + 1, t => crcShifts n (crcShift t)

/-- `crc32_byte(c, b)`: folds one byte into a CRC value (R100). -/
def crc32Byte (c : Word) (b : Byte) : Word := crcShifts 8 (c ^^^ b.zeroExtend 32)

/-- `crc32_block(seed, s)`: the bytes folded in sequence order from `seed` (R101). -/
def crc32Block (seed : Word) (bs : List Byte) : Word := bs.foldl crc32Byte seed

/-- `crc32_frame(h, p)`: the header from seed 0, the payload from the header's result (R102). -/
def crc32Frame (h p : List Byte) : Word := crc32Block (crc32Block 0 h) p

end Sys2Proof.Machine
end

