-- ==== Sys2Proof/Machine/Ops.lean ====
section
/-! DEFINITION. The shared operations of the machine: bytes of the internal buffers, ending an operation with or without read data, raising an error (R13, R240 to R250), and the arbiter's send, match step, time limit and appends (R171 to R185). -/

namespace Sys2Proof.Machine

open Sys2Proof

/-- The result of performing one operation. -/
abbrev Result := Host.Outcome State Fault Refusal

/-! ## Bytes of a buffer -/

/-- The byte at an index: 0x00, the reset contents (R58), where no cell stands. -/
def Memory.read : Memory → Nat → Byte
  | [], _ => 0
  | (j, v) :: m, i => if i = j then v else Memory.read m i

/-- Put a cell in its place, keeping the canonical form: writing 0x00 leaves no cell. -/
def Memory.write : Memory → Nat → Byte → Memory
  | [], i, b => if b = 0 then [] else [(i, b)]
  | (j, v) :: m, i, b =>
    if i < j then (if b = 0 then (j, v) :: m else (i, b) :: (j, v) :: m)
    else if i = j then (if b = 0 then m else (i, b) :: m)
    else (j, v) :: Memory.write m i b

/-- The canonical form from index `lo` on: indices strictly rising, none below `lo`, no cell equal to 0x00. -/
def Memory.wfFrom : Nat → Memory → Bool
  | _, [] => true
  | lo, (j, v) :: m => decide (lo ≤ j) && v != 0 && Memory.wfFrom (j + 1) m

/-- The canonical form of a buffer of capacity `cap`: cells in rising order, none 0x00, none at or beyond `cap`. -/
def Memory.wf (cap : Nat) (m : Memory) : Bool := Memory.wfFrom 0 m && m.all fun c => decide (c.1 < cap)

/-- The byte sequence `buf[0..n)` (R13). -/
def Memory.bytes (m : Memory) (n : Nat) : List Byte := (List.range n).map (Memory.read m)

/-- `buf[i] <- b` for a buffer of capacity `cap`; an index outside the buffer is a fault (log entry 7). -/
def storeByte (k : Buf) (cap i : Nat) (b : Byte) (m : Memory) : Except Fault Memory :=
  if i < cap then .ok (Memory.write m i b) else .error (.bufferIndex k)

/-- `buf[0..n)` for a buffer of capacity `cap`; a span that leaves the buffer is a fault (log entry 7). -/
def loadSpan (k : Buf) (cap n : Nat) (m : Memory) : Except Fault (List Byte) :=
  if n ≤ cap then .ok (Memory.bytes m n) else .error (.bufferIndex k)

/-- `LE16(buf, o)` (R13): two bytes, the first the less significant. -/
def le16 (m : Memory) (o : Nat) : BitVec 16 :=
  (Memory.read m o).zeroExtend 16 ||| ((Memory.read m (o + 1)).zeroExtend 16 <<< 8)

/-! ## Ending an operation -/

/-- Replace the CRC unit's register. -/
def State.setCrc (v : Word) (s : State) : State := { s with block := { s.block with crc := v } }

/-- Replace the decoder's elements. -/
def State.setDec (d : Decoder) (s : State) : State := { s with block := { s.block with dec := d } }

/-- Replace the arbiter's elements. -/
def State.setArb (a : Arbiter) (s : State) : State := { s with block := { s.block with arb := a } }

/-- Replace the sticky bits. -/
def State.setSticky (f : Sticky) (s : State) : State := { s with block := { s.block with sticky := f } }

/-- `emit_tx(seq)`: append the bytes to the TX output stream in order (R13). -/
def State.emit (bs : List Byte) (s : State) : State := { s with tx := s.tx ++ bs }

/-- End a write that pulses nothing and records nothing. -/
def State.done (s : State) : State := { s with out := Outputs.quiet }

/-- End a read with the value it returns; nothing else changes (R60, R66). -/
def State.returning (v : Word) (s : State) : State := { s with out := { Outputs.quiet with rdata := some v } }

/-- Raise an error: its sticky bit is set, the operation ends, no other state changes, no control is transferred and
nothing is saved (R13, R241 to R243, R249, R250). The one way an operation takes an error. -/
def State.raise (k : Event) (s : State) : State :=
  { s.setSticky (s.block.sticky.record k) with out := { Outputs.quiet with event := some k } }

/-- Recovery from the errors, the nearest thing to a return: every sticky bit is cleared (R226, R251). -/
def State.clearErrors (s : State) : State := s.setSticky Sticky.reset

/-- An `Except` of a fault as the outcome of an operation. -/
def outcome : Except Fault State → Result
  | .ok t => .next t
  | .error f => .fault f

/-! ## The arbiter -/

/-- The busy rule: while the arbiter waits, the operation raises BusyReject; otherwise it runs (R242). -/
def unlessWaiting (s : State) (run : Except Fault State) : Except Fault State :=
  if s.block.arb.astate = .wait then .ok (s.raise .busyReject) else run

/-- The operations that act only while the arbiter waits, and otherwise change nothing and raise nothing (R176, R177, R184, R185). -/
def onlyWaiting (s : State) (run : Except Fault State) : Except Fault State :=
  if s.block.arb.astate = .wait then run else .ok s.done

/-- `send()` (R174): the command bytes leave on `tx` verbatim and in order; elapsed time and match length restart. -/
def send (c : Config) (s : State) : Except Fault State :=
  match loadSpan .cmd c.cmdCap s.block.arb.cmdLen.toNat s.block.arb.cmd with
  | .error f => .error f
  | .ok bs => .ok ((s.emit bs).setArb { s.block.arb with elapsed := 0, matchLen := 0 })

/-- The largest `j` up to the given bound such that `p[0..j)` is a suffix of `t` (R172). -/
def longestPrefixSuffix (p t : List Byte) : Nat → Nat
  | 0 => 0
  | j + 1 => if (p.take (j + 1)).isSuffixOf t then j + 1 else longestPrefixSuffix p t j

/-- `match_next(k, b)` for the pattern `p` (R172): from `min(k + 1, pat_len)` down to 0. -/
def matchNext (p : List Byte) (k : Nat) (b : Byte) : Nat :=
  longestPrefixSuffix p (p.take k ++ [b]) (min (k + 1) p.length)

/-- The time limit of an attempt in microseconds: the exact product of budget and multiplier (R171). -/
def timeLimit (c : Config) (budget : Word) : Nat := budget.toNat * c.timeoutMult

/-- `min(elapsed + zext_64(d), 2^64 - 1)`: the saturating addition of R185. -/
def addElapsed (e : BitVec 64) (d : Word) : BitVec 64 := BitVec.ofNat 64 (min (e.toNat + d.toNat) (2 ^ 64 - 1))

/-- ARB.START (R175). -/
def startTransaction (c : Config) (s : State) : Except Fault State :=
  unlessWaiting s <|
    match send c (s.setArb { s.block.arb with astate := .wait, attempts := 1 }) with
    | .error f => .error f
    | .ok t => .ok (t.setArb { t.block.arb with astate := if t.block.arb.patLen = 0 then .success else .wait }).done

/-- ARB.CMD b (R182). -/
def appendCommand (c : Config) (b : Byte) (s : State) : Except Fault State :=
  unlessWaiting s <|
    if s.block.arb.cmdLen.toNat = c.cmdCap then .ok (s.raise .overflowCmd)
    else match storeByte .cmd c.cmdCap s.block.arb.cmdLen.toNat b s.block.arb.cmd with
      | .error f => .error f
      | .ok m => .ok (s.setArb { s.block.arb with cmd := m, cmdLen := s.block.arb.cmdLen + 1 }).done

/-- ARB.PAT b (R183). -/
def appendPattern (c : Config) (b : Byte) (s : State) : Except Fault State :=
  unlessWaiting s <|
    if s.block.arb.patLen.toNat = c.patCap then .ok (s.raise .overflowPat)
    else match storeByte .pat c.patCap s.block.arb.patLen.toNat b s.block.arb.pat with
      | .error f => .error f
      | .ok m => .ok (s.setArb { s.block.arb with pat := m, patLen := s.block.arb.patLen + 1 }).done

/-- ARB.RX b (R184): the match step, and SUCCESS once the whole pattern is matched. -/
def receiveReply (c : Config) (b : Byte) (s : State) : Except Fault State :=
  onlyWaiting s <|
    match loadSpan .pat c.patCap s.block.arb.patLen.toNat s.block.arb.pat with
    | .error f => .error f
    | .ok p =>
      if s.block.arb.patLen.toNat ≤ s.block.arb.matchLen.toNat then .error .matchDomain
      else
        let j := matchNext p s.block.arb.matchLen.toNat b
        .ok (s.setArb { s.block.arb with
          matchLen := BitVec.ofNat 8 j
          astate := if j = s.block.arb.patLen.toNat then .success else .wait }).done

/-- ARB.TICK d (R185): time advances; past the limit the attempt ends in a resend or in TIMEOUT. -/
def tick (c : Config) (d : Word) (s : State) : Except Fault State :=
  onlyWaiting s <|
    let a := { s.block.arb with elapsed := addElapsed s.block.arb.elapsed d }
    if a.elapsed.toNat > timeLimit c a.budget then
      if a.attempts < a.maxTries then
        match send c (s.setArb { a with attempts := a.attempts + 1 }) with
        | .error f => .error f
        | .ok t => .ok t.done
      else .ok (s.setArb { a with astate := .timeout }).done
    else .ok (s.setArb a).done

end Sys2Proof.Machine
end

