-- ==== Sys2Proof/Machine/Bus.lean ====
section
/-! DEFINITION. The host's side of the bus: the queue of transactions issued and not yet performed (R60, R73; log entry 1). The model's own: the block fetches nothing (R22). -/

namespace Sys2Proof.Machine

open Sys2Proof

/-- Take the oldest pending transaction, if the host has issued one. -/
def takeTransaction (s : State) : Option (TWord × State) :=
  match s.bus with
  | [] => none
  | t :: rest => some (t, { s with bus := rest })

/-- A transaction placed before every pending one, so that it is the next performed. -/
def issueNext (t : TWord) (s : State) : State := { s with bus := t :: s.bus }

/-- With no transaction pending nothing happens: the block does nothing between transactions (R73, R257; log entry 2). -/
def idle (s : State) : State := s

end Sys2Proof.Machine
end

