-- ==== Sys2Proof/Machine/FrameSteps.lean ====
section
/-! DEFINITION. The state steps of the binary frame decoder (R122 to R136). -/

namespace Sys2Proof.Machine

open Sys2Proof

/-- What one decoder step answers: the decoder after it, the result that goes to `dec_result`, the `frame_done` pulse and the recorded event. -/
structure DecStep where
  dec : Decoder
  result : Word
  frameDone : Bool
  event : Option Event
deriving DecidableEq, Repr

/-- A step that completes no frame and records nothing. -/
def stepTo (d : Decoder) : DecStep := { dec := d, result := 0, frameDone := false, event := none }

/-- `restart()`: back to SYNC1 with `read = 0`, everything else kept (R122). -/
def Decoder.restart (d : Decoder) : Decoder := { d with dstate := .sync1, read := 0 }

/-- A structural restart: counted in `drop_cnt` modulo `2^32`, the byte discarded (R126, R127, R129, R244). -/
def dropFrame (d : Decoder) : DecStep :=
  { stepTo { d with dropCnt := d.dropCnt + 1 }.restart with event := some .frameDrop }

/-- SYNC1 (R123). -/
def stepSync1 (b : Byte) (d : Decoder) : DecStep :=
  stepTo (if b = 0xAA then { d with dstate := .sync2 } else d)

/-- SYNC2 (R124). -/
def stepSync2 (b : Byte) (d : Decoder) : DecStep :=
  stepTo (if b = 0x44 then { d with dstate := .sync3 } else d.restart)

/-- SYNC3 (R125). -/
def stepSync3 (b : Byte) (d : Decoder) : DecStep :=
  stepTo (if b = 0xB5 then { d with dstate := .hdrlen } else d.restart)

/-- The header buffer seeded with the preamble and the header-length byte (R126). -/
def seedHeader (b : Byte) (m : Memory) : Memory :=
  Memory.write (Memory.write (Memory.write (Memory.write m 0 0xAA) 1 0x44) 2 0xB5) 3 b

/-- HDRLEN (R126): a length below `HDR_MIN_LEN` is dropped. -/
def stepHdrlen (c : Config) (b : Byte) (d : Decoder) : DecStep :=
  if b.toNat < c.hdrMinLen then dropFrame d
  else stepTo { d with hdr := seedHeader b d.hdr, hdrLen := b, read := 4, frameValid := false, dstate := .hdr }

/-- Header completion (R128): the payload length is taken from the buffer after the step's own write. -/
def headerDone (c : Config) (d : Decoder) : Decoder :=
  { d with
    msgLen := le16 d.hdr c.msglenOffset
    dstate := if le16 d.hdr c.msglenOffset = 0 then .ck1 else .pay }

/-- HDR (R127): accumulate, or restart when the buffer is full. -/
def stepHdr (c : Config) (b : Byte) (d : Decoder) : Except Fault DecStep :=
  if d.read.toNat = c.hdrCap then .ok (dropFrame d)
  else match storeByte .hdr c.hdrCap d.read.toNat b d.hdr with
    | .error f => .error f
    | .ok m =>
      let d' := { d with hdr := m, read := d.read + 1 }
      .ok (stepTo (if d'.read = d.hdrLen.zeroExtend 32 then headerDone c d' else d'))

/-- PAY (R129): accumulate, or restart when the buffer is full. -/
def stepPay (c : Config) (b : Byte) (d : Decoder) : Except Fault DecStep :=
  let i := d.read - d.hdrLen.zeroExtend 32
  if i.toNat = c.payCap then .ok (dropFrame d)
  else match storeByte .pay c.payCap i.toNat b d.pay with
    | .error f => .error f
    | .ok m =>
      let d' := { d with pay := m, read := d.read + 1 }
      .ok (stepTo (if d'.read = d.hdrLen.zeroExtend 32 + d.msgLen.zeroExtend 32 then { d' with dstate := .ck1 } else d'))

/-- CK1: bits 7:0 of the trailer (R130). -/
def stepCk1 (b : Byte) (d : Decoder) : DecStep :=
  stepTo { d with rxCrc := b.zeroExtend 32, dstate := .ck2 }

/-- CK2: bits 15:8 (R131). -/
def stepCk2 (b : Byte) (d : Decoder) : DecStep :=
  stepTo { d with rxCrc := d.rxCrc ||| (b.zeroExtend 32 <<< 8), dstate := .ck3 }

/-- CK3: bits 23:16 (R132). -/
def stepCk3 (b : Byte) (d : Decoder) : DecStep :=
  stepTo { d with rxCrc := d.rxCrc ||| (b.zeroExtend 32 <<< 16), dstate := .ck4 }

/-- The two-stage CRC over `hdr[0..hdr_len)` then `pay[0..msg_len)` (R133, R134). -/
def frameCrc (c : Config) (d : Decoder) : Except Fault Word :=
  match loadSpan .hdr c.hdrCap d.hdrLen.toNat d.hdr, loadSpan .pay c.payCap d.msgLen.toNat d.pay with
  | .ok h, .ok p => .ok (crc32Frame h p)
  | .error f, _ => .error f
  | _, .error f => .error f

/-- A matching trailer (R133, R135): the frame is valid, the result is the read count, `frame_done` pulses. -/
def acceptFrame (d : Decoder) : DecStep :=
  { dec := { d with frameValid := true }.restart, result := d.read, frameDone := true, event := none }

/-- A trailer that differs (R133, R136): counted in `badcrc_cnt` modulo `2^32`, nothing else reports it. -/
def rejectFrame (d : Decoder) : DecStep :=
  { stepTo { d with badcrcCnt := d.badcrcCnt + 1 }.restart with event := some .badChecksum }

/-- CK4: bits 31:24, then the check (R133). -/
def stepCk4 (c : Config) (b : Byte) (d : Decoder) : Except Fault DecStep :=
  match frameCrc c d with
  | .error f => .error f
  | .ok v =>
    let d' := { d with rxCrc := d.rxCrc ||| (b.zeroExtend 32 <<< 24), calcCrc := v }
    .ok (if d'.calcCrc = d'.rxCrc then acceptFrame d' else rejectFrame d')

/-- The step of the current decoder state on one byte: the case of R121, the table of R138. -/
def decStep (c : Config) (b : Byte) (d : Decoder) : Except Fault DecStep :=
  match d.dstate with
  | .sync1 => .ok (stepSync1 b d)
  | .sync2 => .ok (stepSync2 b d)
  | .sync3 => .ok (stepSync3 b d)
  | .hdrlen => .ok (stepHdrlen c b d)
  | .hdr => stepHdr c b d
  | .pay => stepPay c b d
  | .ck1 => .ok (stepCk1 b d)
  | .ck2 => .ok (stepCk2 b d)
  | .ck3 => .ok (stepCk3 b d)
  | .ck4 => stepCk4 c b d

/-- DEC.BYTE b (R121): one step, its result into `dec_result`, its pulse and event to the outputs. -/
def consumeByte (c : Config) (b : Byte) (s : State) : Except Fault State :=
  match decStep c b s.block.dec with
  | .error f => .error f
  | .ok r => .ok { s.setDec { r.dec with decResult := r.result } with
      out := { rdata := none, frameDone := r.frameDone, event := r.event } }

/-- DEC_MSGINFO: the message id read from the header buffer now, `msg_len` in the upper half (R49, R141). -/
def msgInfo (c : Config) (d : Decoder) : Word := field (le16 d.hdr c.msgidOffset) 0 ||| field d.msgLen 16

/-- FBUF_DATA: the selected buffer byte, 0 at or beyond the buffer's capacity (R51, R147). -/
def fbufByte (c : Config) (d : Decoder) : Word :=
  let i := (d.fsel.extractLsb' 0 16).toNat
  if d.fsel.getLsbD 16 then (if i < c.payCap then field (Memory.read d.pay i) 0 else 0)
  else (if i < c.hdrCap then field (Memory.read d.hdr i) 0 else 0)

end Sys2Proof.Machine
end

