-- ==== Sys2Proof/Machine/CommandArbiter.lean ====
section
/-! DEFINITION. The meanings of the command arbiter's operations (42_command_arbiter.md). -/

namespace Sys2Proof.Machine

open Sys2Proof

/-- ARB.START (R175). -/
def execArbStart (s : State) : Result := outcome (startTransaction s.cfg s)

/-- ARB.ABORT (R176): outside WAIT it has no effect. -/
def execArbAbort (s : State) : Result :=
  outcome (onlyWaiting s (.ok (s.setArb { s.block.arb with astate := .aborted }).done))

/-- ARB.IOERR (R177): outside WAIT it has no effect. -/
def execArbIoerr (s : State) : Result :=
  outcome (onlyWaiting s (.ok (s.setArb { s.block.arb with astate := .ioerr }).done))

/-- ARB.CLRCMD (R178): the bytes stay, the length is 0. -/
def execArbClrcmd (s : State) : Result :=
  outcome (unlessWaiting s (.ok (s.setArb { s.block.arb with cmdLen := 0 }).done))

/-- ARB.CLRPAT (R179): the match length is cleared with the pattern length. -/
def execArbClrpat (s : State) : Result :=
  outcome (unlessWaiting s (.ok (s.setArb { s.block.arb with patLen := 0, matchLen := 0 }).done))

/-- RD.ARB_STATUS (R186). -/
def execRdArbStatus (s : State) : Result := .next (s.returning s.block.arb.status)

/-- ARB.BUDGET v (R180). -/
def execArbBudget (v : Word) (s : State) : Result :=
  outcome (unlessWaiting s (.ok (s.setArb { s.block.arb with budget := v }).done))

/-- RD.ARB_BUDGET (R187). -/
def execRdArbBudget (s : State) : Result := .next (s.returning s.block.arb.budget)

/-- ARB.TRIES n (R181). -/
def execArbTries (n : Byte) (s : State) : Result :=
  outcome (unlessWaiting s (.ok (s.setArb { s.block.arb with maxTries := triesValue n }).done))

/-- RD.ARB_TRIES (R188). -/
def execRdArbTries (s : State) : Result := .next (s.returning (field s.block.arb.maxTries 0))

/-- ARB.CMD b (R182). -/
def execArbCmd (b : Byte) (s : State) : Result := outcome (appendCommand s.cfg b s)

/-- ARB.PAT b (R183). -/
def execArbPat (b : Byte) (s : State) : Result := outcome (appendPattern s.cfg b s)

/-- ARB.RX b (R184). -/
def execArbRx (b : Byte) (s : State) : Result := outcome (receiveReply s.cfg b s)

/-- ARB.TICK d (R185). -/
def execArbTick (d : Word) (s : State) : Result := outcome (tick s.cfg d s)

/-- RD.ARB_LEN (R189). -/
def execRdArbLen (s : State) : Result := .next (s.returning s.block.arb.lengths)

/-- RD.ARB_ELAPSED_LO (R190). -/
def execRdArbElapsedLo (s : State) : Result := .next (s.returning (s.block.arb.elapsed.extractLsb' 0 32))

/-- RD.ARB_ELAPSED_HI (R191). -/
def execRdArbElapsedHi (s : State) : Result := .next (s.returning (s.block.arb.elapsed.extractLsb' 32 32))

end Sys2Proof.Machine
end

