-- ==== Sys2Proof/Machine/Control.lean ====
section
/-! DEFINITION. The meanings of the block control, capability and status operations (43_block_control.md). -/

namespace Sys2Proof.Machine

open Sys2Proof

/-- RD.CAPS0 (R220). -/
def execRdCaps0 (s : State) : Result := .next (s.returning (caps0 s.cfg))

/-- RD.CAPS1 (R221). -/
def execRdCaps1 (s : State) : Result := .next (s.returning (caps1 s.cfg))

/-- RD.CAPS2 (R222). -/
def execRdCaps2 (s : State) : Result := .next (s.returning (caps2 s.cfg))

/-- RD.CAPS3 (R223). -/
def execRdCaps3 (s : State) : Result := .next (s.returning (caps3 s.cfg))

/-- CTL.RESET (R224): every state element takes its reset value; `tx` emits nothing and `frame_done` does not pulse (R59). -/
def execCtlReset (s : State) : Result := .next { s with block := Block.reset }.done

/-- CTL.DECRST (R225): the decoder restarts, the retained frame and the result are given up, the buffers and counters stay. -/
def execCtlDecrst (s : State) : Result :=
  .next (s.setDec { s.block.dec.restart with frameValid := false, decResult := 0 }).done

/-- CTL.CLRERR (R226). -/
def execCtlClrerr (s : State) : Result := .next s.clearErrors.done

/-- CTL.CLRCNT (R227). -/
def execCtlClrcnt (s : State) : Result := .next (s.setDec { s.block.dec with badcrcCnt := 0, dropCnt := 0 }).done

/-- RD.STATUS (R228). -/
def execRdStatus (s : State) : Result := .next (s.returning s.block.sticky.status)

end Sys2Proof.Machine
end

