-- ==== Sys2Proof/Machine/Crc.lean ====
section
/-! DEFINITION. The meanings of the CRC unit's operations (40_crc.md). -/

namespace Sys2Proof.Machine

open Sys2Proof

/-- CRC.SEED v (R103). -/
def execCrcSeed (v : Word) (s : State) : Result := .next (s.setCrc v).done

/-- CRC.BYTE b (R104). -/
def execCrcByte (b : Byte) (s : State) : Result := .next (s.setCrc (crc32Byte s.block.crc b)).done

/-- RD.CRC_VAL (R106). -/
def execRdCrcVal (s : State) : Result := .next (s.returning s.block.crc)

end Sys2Proof.Machine
end

