-- ==== Sys2Proof/Machine/Fallback.lean ====
section
/-! DEFINITION. The meanings of the two fallback rows (30_encoding.md R91, R92). -/

namespace Sys2Proof.Machine

open Sys2Proof

/-- WR.ILLEGAL: `raise IllegalAccess(A, D)`; neither the address nor the data is recorded (R91, R241). -/
def execWrIllegal (_a : Byte) (_d : Word) (s : State) : Result := .next (s.raise .illegalAccess)

/-- RD.ZERO: returns 0 and changes nothing (R90, R92). -/
def execRdZero (_a : Byte) (s : State) : Result := .next (s.returning 0)

end Sys2Proof.Machine
end

