-- ==== Sys2Proof/Machine/FrameDecoder.lean ====
section
/-! DEFINITION. The meanings of the frame decoder's operations (41_frame_decoder.md). -/

namespace Sys2Proof.Machine

open Sys2Proof

/-- DEC.BYTE b (R121). -/
def execDecByte (b : Byte) (s : State) : Result := outcome (consumeByte s.cfg b s)

/-- RD.DEC_RESULT (R139). -/
def execRdDecResult (s : State) : Result := .next (s.returning s.block.dec.decResult)

/-- RD.DEC_STATUS (R140). -/
def execRdDecStatus (s : State) : Result := .next (s.returning s.block.dec.status)

/-- RD.DEC_READ (R142). -/
def execRdDecRead (s : State) : Result := .next (s.returning s.block.dec.read)

/-- RD.DEC_MSGINFO (R141). -/
def execRdDecMsginfo (s : State) : Result := .next (s.returning (msgInfo s.cfg s.block.dec))

/-- RD.DEC_RXCRC (R143). -/
def execRdDecRxcrc (s : State) : Result := .next (s.returning s.block.dec.rxCrc)

/-- RD.DEC_CALCCRC (R144). -/
def execRdDecCalccrc (s : State) : Result := .next (s.returning s.block.dec.calcCrc)

/-- FBUF.SEL buf, idx (R145): any index is accepted. -/
def execFbufSel (buf : BufSel) (idx : BitVec 16) (s : State) : Result :=
  .next (s.setDec { s.block.dec with fsel := fselValue buf idx }).done

/-- RD.FBUF_SEL (R146). -/
def execRdFbufSel (s : State) : Result := .next (s.returning (field s.block.dec.fsel 0))

/-- RD.FBUF_DATA (R147). -/
def execRdFbufData (s : State) : Result := .next (s.returning (fbufByte s.cfg s.block.dec))

/-- RD.BADCRC_CNT (R148). -/
def execRdBadcrcCnt (s : State) : Result := .next (s.returning s.block.dec.badcrcCnt)

/-- RD.DROP_CNT (R149). -/
def execRdDropCnt (s : State) : Result := .next (s.returning s.block.dec.dropCnt)

end Sys2Proof.Machine
end

