-- ==== Sys2Proof/Machine/Dispatch.lean ====
section
/-! DEFINITION. The dispatch of every operation to its meaning: one arm per constructor of `Instr`. -/

namespace Sys2Proof.Machine

open Sys2Proof

-- One bus transaction is one operation (R3).
def exec (i : Instr) (s : State) : Host.Outcome State Fault Refusal :=
  match i with
  | .rdCaps0 => Sys2Proof.Machine.execRdCaps0 s
  | .rdCaps1 => Sys2Proof.Machine.execRdCaps1 s
  | .rdCaps2 => Sys2Proof.Machine.execRdCaps2 s
  | .rdCaps3 => Sys2Proof.Machine.execRdCaps3 s
  | .ctlReset => Sys2Proof.Machine.execCtlReset s
  | .ctlDecrst => Sys2Proof.Machine.execCtlDecrst s
  | .ctlClrerr => Sys2Proof.Machine.execCtlClrerr s
  | .ctlClrcnt => Sys2Proof.Machine.execCtlClrcnt s
  | .rdStatus => Sys2Proof.Machine.execRdStatus s
  | .crcSeed v => Sys2Proof.Machine.execCrcSeed v s
  | .rdCrcVal => Sys2Proof.Machine.execRdCrcVal s
  | .crcByte b => Sys2Proof.Machine.execCrcByte b s
  | .decByte b => Sys2Proof.Machine.execDecByte b s
  | .rdDecResult => Sys2Proof.Machine.execRdDecResult s
  | .rdDecStatus => Sys2Proof.Machine.execRdDecStatus s
  | .rdDecRead => Sys2Proof.Machine.execRdDecRead s
  | .rdDecMsginfo => Sys2Proof.Machine.execRdDecMsginfo s
  | .rdDecRxcrc => Sys2Proof.Machine.execRdDecRxcrc s
  | .rdDecCalccrc => Sys2Proof.Machine.execRdDecCalccrc s
  | .fbufSel buf idx => Sys2Proof.Machine.execFbufSel buf idx s
  | .rdFbufSel => Sys2Proof.Machine.execRdFbufSel s
  | .rdFbufData => Sys2Proof.Machine.execRdFbufData s
  | .rdBadcrcCnt => Sys2Proof.Machine.execRdBadcrcCnt s
  | .rdDropCnt => Sys2Proof.Machine.execRdDropCnt s
  | .arbStart => Sys2Proof.Machine.execArbStart s
  | .arbAbort => Sys2Proof.Machine.execArbAbort s
  | .arbIoerr => Sys2Proof.Machine.execArbIoerr s
  | .arbClrcmd => Sys2Proof.Machine.execArbClrcmd s
  | .arbClrpat => Sys2Proof.Machine.execArbClrpat s
  | .rdArbStatus => Sys2Proof.Machine.execRdArbStatus s
  | .arbBudget v => Sys2Proof.Machine.execArbBudget v s
  | .rdArbBudget => Sys2Proof.Machine.execRdArbBudget s
  | .arbTries n => Sys2Proof.Machine.execArbTries n s
  | .rdArbTries => Sys2Proof.Machine.execRdArbTries s
  | .arbCmd b => Sys2Proof.Machine.execArbCmd b s
  | .arbPat b => Sys2Proof.Machine.execArbPat b s
  | .arbRx b => Sys2Proof.Machine.execArbRx b s
  | .arbTick d => Sys2Proof.Machine.execArbTick d s
  | .rdArbLen => Sys2Proof.Machine.execRdArbLen s
  | .rdArbElapsedLo => Sys2Proof.Machine.execRdArbElapsedLo s
  | .rdArbElapsedHi => Sys2Proof.Machine.execRdArbElapsedHi s
  | .wrIllegal a d => Sys2Proof.Machine.execWrIllegal a d s
  | .rdZero a => Sys2Proof.Machine.execRdZero a s

end Sys2Proof.Machine
end

