-- ==== Sys2Proof/Machine/Step.lean ====
section
/-! DEFINITION. One step of the machine: the oldest pending transaction is decoded and performed as one atomic operation (R68, R73, R81). -/

namespace Sys2Proof.Machine

open Sys2Proof

/-- One step: perform the oldest pending transaction; with none pending, nothing happens. -/
def step (s : State) : Host.Outcome State Fault Refusal :=
  match takeTransaction s with
  | none => .next (idle s)
  | some (t, s') => exec (decode t) s'

/-- `s` with the transaction whose bits are `w` pending before every other, so that the next step performs it. -/
def State.withFetchWord (s : State) (nbits w : Nat) : State := issueNext (BitVec.ofNat 41 (tableBits nbits w)) s

end Sys2Proof.Machine
end

