-- ==== Sys2Proof/Machine/Assembler.lean ====
section
/-! DEFINITION. Host programs as rule R94 writes them: pseudo-operations and their expansions (R95), raw transactions, and an assembler from text to operations. The block itself knows none of this: it performs the transactions. -/

namespace Sys2Proof.Machine

open Sys2Proof

/-! ## Pseudo-operations (R95): each is the sequence of operations it expands to -/

/-- `CRC.BLOCK seed, b0, ..., bn-1`. -/
def crcBlockOps (seed : Word) (bs : List Byte) : List Instr := .crcSeed seed :: (bs.map .crcByte ++ [.rdCrcVal])

/-- `DEC.FEED b0, ..., bn-1`. -/
def decFeedOps (bs : List Byte) : List Instr := bs.flatMap fun b => [.decByte b, .rdDecResult]

/-- `ARB.LOADCMD "s"`. -/
def loadCmdOps (s : List Byte) : List Instr := .arbClrcmd :: s.map .arbCmd

/-- `ARB.LOADPAT "s"`. -/
def loadPatOps (s : List Byte) : List Instr := .arbClrpat :: s.map .arbPat

/-- `ARB.SEND "cmd", "pat", budget, tries`. -/
def sendOps (cmd pat : List Byte) (budget : Word) (tries : Byte) : List Instr :=
  loadCmdOps cmd ++ loadPatOps pat ++ [.arbBudget budget, .arbTries tries, .arbStart]

/-- `FBUF.GET HDR|PAY, idx`. -/
def fbufGetOps (buf : BufSel) (idx : BitVec 16) : List Instr := [.fbufSel buf idx, .rdFbufData]

/-- `ARB.RXS "s"`. -/
def rxsOps (s : List Byte) : List Instr := s.map .arbRx

/-! ## Raw transactions (R94) -/

/-- `WR A, D`: the operation that rule R81 selects. -/
def rawWrite (a : Byte) (d : Word) : Instr := decode (tword true a d)

/-- `RDW A`: the operation that rule R81 selects. -/
def rawRead (a : Byte) : Instr := decode (tword false a 0)

/-! ## Text -/

/-- Why a line is no line of a host program. -/
inductive AsmError where
  /-- A character, literal or string that R94 and R95 do not know. -/
  | lexical
  /-- A mnemonic or operand list that R88, R94 and R95 do not know. -/
  | unknownLine
  /-- An operand that does not fit its field. -/
  | operandRange
  /-- An expected value with no read before it: none on its line and, in a program, none on the line directly above
  (DESIGN CHOICE, log entry 14). -/
  | valueWithoutRead
deriving DecidableEq, Repr

/-- The pieces of a line. -/
inductive Token where
  | word (w : List Char)
  | num (n : Nat)
  | str (bs : List Byte)
  | comma
  | arrow
deriving DecidableEq, Repr

/-- Where the scanner stands in a line. -/
inductive ScanMode where
  | gap
  | text (rev : List Char)
  | str (rev : List Byte)
  | escape (rev : List Byte)
  | charOpen
  | charClose (c : Char)
  | dash
deriving DecidableEq, Repr

/-- The value of a digit in base 10 or 16. -/
def digitValue (base : Nat) (c : Char) : Option Nat :=
  let v :=
    if '0' ≤ c ∧ c ≤ '9' then some (c.toNat - '0'.toNat)
    else if 'a' ≤ c ∧ c ≤ 'f' then some (c.toNat - 'a'.toNat + 10)
    else if 'A' ≤ c ∧ c ≤ 'F' then some (c.toNat - 'A'.toNat + 10)
    else none
  v.filter fun n => decide (n < base)

/-- The number that digits spell, most significant first. -/
def digitsValue (base acc : Nat) : List Char → Option Nat
  | [] => some acc
  | c :: cs =>
    match digitValue base c with
    | some v => digitsValue base (acc * base + v) cs
    | none => none

/-- A decimal or `0x` hexadecimal literal (R94). -/
def literalValue : List Char → Option Nat
  | '0' :: 'x' :: c :: cs => digitsValue 16 0 (c :: cs)
  | c :: cs => digitsValue 10 0 (c :: cs)
  | [] => none

/-- A finished word: a literal if it starts with a digit, else a name. -/
def textToken (w : List Char) : Except AsmError Token :=
  match w with
  | c :: _ =>
    if '0' ≤ c ∧ c ≤ '9' then
      match literalValue w with
      | some n => .ok (.num n)
      | none => .error .lexical
    else .ok (.word w)
  | [] => .error .lexical

/-- The ASCII code of a character as a byte. -/
def charByte (c : Char) : Byte := BitVec.ofNat 8 c.toNat

/-- The escapes of a string literal (R95). -/
def escapeByte (c : Char) : Option Byte :=
  if c = 'r' then some 0x0D
  else if c = 'n' then some 0x0A
  else if c = '\\' ∨ c = '"' then some (charByte c)
  else none

/-- A token before the ones that follow it. -/
def before (t : Token) (r : Except AsmError (List Token)) : Except AsmError (List Token) := r.map (t :: ·)

/-- A finished word before the tokens that follow it. -/
def textBefore (rev : List Char) (r : Except AsmError (List Token)) : Except AsmError (List Token) :=
  match textToken rev.reverse with
  | .ok t => before t r
  | .error e => .error e

/-- The tokens of a line; `;` starts a comment (R94). -/
def scan : ScanMode → List Char → Except AsmError (List Token)
  | .gap, [] => .ok []
  | .text rev, [] => textBefore rev (.ok [])
  | _, [] => .error .lexical
  | .gap, c :: cs =>
    if c = ' ' ∨ c = '\t' then scan .gap cs
    else if c = ';' then .ok []
    else if c = ',' then before .comma (scan .gap cs)
    else if c = '-' then scan .dash cs
    else if c = '"' then scan (.str []) cs
    else if c = '\'' then scan .charOpen cs
    else if c.isAlphanum then scan (.text [c]) cs
    else .error .lexical
  | .text rev, c :: cs =>
    if c.isAlphanum ∨ c = '.' ∨ c = '_' then scan (.text (c :: rev)) cs
    else if c = ' ' ∨ c = '\t' then textBefore rev (scan .gap cs)
    else if c = ',' then textBefore rev (before .comma (scan .gap cs))
    else if c = ';' then textBefore rev (.ok [])
    else .error .lexical
  | .str rev, c :: cs =>
    if c = '"' then before (.str rev.reverse) (scan .gap cs)
    else if c = '\\' then scan (.escape rev) cs
    else if c.toNat < 128 then scan (.str (charByte c :: rev)) cs
    else .error .lexical
  | .escape rev, c :: cs =>
    match escapeByte c with
    | some b => scan (.str (b :: rev)) cs
    | none => .error .lexical
  | .charOpen, c :: cs => if c.toNat < 128 then scan (.charClose c) cs else .error .lexical
  | .charClose k, c :: cs => if c = '\'' then before (.num k.toNat) (scan .gap cs) else .error .lexical
  | .dash, c :: cs => if c = '>' then before .arrow (scan .gap cs) else .error .lexical

/-- An operand as a field of `w` bits. -/
def asField (w n : Nat) : Except AsmError (BitVec w) :=
  if n < 2 ^ w then .ok (BitVec.ofNat w n) else .error .operandRange

/-- Operands as bytes. -/
def asBytes (ns : List Nat) : Except AsmError (List Byte) := ns.mapM (asField 8)

/-- Numbers separated by commas. -/
def numberList : List Token → Option (List Nat)
  | [.num n] => some [n]
  | .num n :: .comma :: ts => (numberList ts).map (n :: ·)
  | _ => none

/-- The operations without operand, by mnemonic (R88). -/
def plainOps : List Instr :=
  [ .rdCaps0, .rdCaps1, .rdCaps2, .rdCaps3, .ctlReset, .ctlDecrst, .ctlClrerr, .ctlClrcnt, .rdStatus, .rdCrcVal,
    .rdDecResult, .rdDecStatus, .rdDecRead, .rdDecMsginfo, .rdDecRxcrc, .rdDecCalccrc, .rdFbufSel, .rdFbufData,
    .rdBadcrcCnt, .rdDropCnt, .arbStart, .arbAbort, .arbIoerr, .arbClrcmd, .arbClrpat, .rdArbStatus, .rdArbBudget,
    .rdArbTries, .rdArbLen, .rdArbElapsedLo, .rdArbElapsedHi ]

/-- The operations with a byte operand (R82, R86). -/
def byteOps : List (Byte → Instr) := [.crcByte, .decByte, .arbTries, .arbCmd, .arbPat, .arbRx]

/-- The operations with a 32-bit operand (R83). -/
def wordOps : List (Word → Instr) := [.crcSeed, .arbBudget, .arbTick]

/-- Whether a word is the given name. -/
def named (w : List Char) (name : String) : Bool := w == name.toList

/-- The buffer a word names. -/
def bufNamed (w : List Char) : Option BufSel :=
  if named w "HDR" then some .hdr else if named w "PAY" then some .pay else none

/-- A line with one number as its operand. -/
def numberLine (m : List Char) (n : Nat) : Except AsmError (List Instr) :=
  match byteOps.find? (fun f => named m (f 0).mnemonic) with
  | some f => (asField 8 n).map fun b => [f b]
  | none =>
    match wordOps.find? (fun f => named m (f 0).mnemonic) with
    | some f => (asField 32 n).map fun v => [f v]
    | none => if named m "RDW" then (asField 8 n).map fun a => [rawRead a] else .error .unknownLine

/-- A line whose operands are numbers separated by commas: a raw write, or a pseudo-operation over bytes. -/
def numbersLine (m : List Char) (ns : List Nat) : Except AsmError (List Instr) :=
  if named m "DEC.FEED" then (asBytes ns).map decFeedOps
  else match ns with
    | [] => .error .unknownLine
    | n :: rest =>
      if named m "CRC.BLOCK" then
        match asField 32 n, asBytes rest with
        | .ok seed, .ok bs => .ok (crcBlockOps seed bs)
        | _, _ => .error .operandRange
      else if named m "WR" then
        match rest with
        | [d] =>
          match asField 8 n, asField 32 d with
          | .ok a, .ok v => .ok [rawWrite a v]
          | _, _ => .error .operandRange
        | _ => .error .unknownLine
      else match rest with
        | [] => numberLine m n
        | _ => .error .unknownLine

/-- The operations of a line: a mnemonic with its operands, a raw transaction or a pseudo-operation (R94, R95). -/
def lineOps : List Token → Except AsmError (List Instr)
  | [] => .ok []
  | [.word m] =>
    match plainOps.find? (fun i => named m i.mnemonic) with
    | some i => .ok [i]
    | none => .error .unknownLine
  | [.word m, .str s] =>
    if named m "ARB.LOADCMD" then .ok (loadCmdOps s)
    else if named m "ARB.LOADPAT" then .ok (loadPatOps s)
    else if named m "ARB.RXS" then .ok (rxsOps s)
    else .error .unknownLine
  | [.word m, .str cmd, .comma, .str pat, .comma, .num budget, .comma, .num tries] =>
    if named m "ARB.SEND" then
      match asField 32 budget, asField 8 tries with
      | .ok v, .ok n => .ok (sendOps cmd pat v n)
      | _, _ => .error .operandRange
    else .error .unknownLine
  | [.word m, .word w, .comma, .num n] =>
    match bufNamed w, asField 16 n with
    | some buf, .ok idx =>
      if named m "FBUF.SEL" then .ok [.fbufSel buf idx]
      else if named m "FBUF.GET" then .ok (fbufGetOps buf idx)
      else .error .unknownLine
    | some _, .error e => .error e
    | none, _ => .error .unknownLine
  | .word m :: ts =>
    match numberList ts with
    | some ns => numbersLine m ns
    | none => .error .unknownLine
  | _ => .error .unknownLine

/-- An assembled line: its operations, and the value its last read is said to give, if any. -/
structure AsmLine where
  ops : List Instr
  expected : Option Word
deriving DecidableEq, Repr

/-- The pieces of a line as its operations and its `-> value`, which must end a line whose last operation is a read (R94). -/
def assembleTokens (ts : List Token) : Except AsmError AsmLine :=
  match lineOps (ts.takeWhile (· != .arrow)), ts.dropWhile (· != .arrow) with
  | .ok ops, [] => .ok { ops := ops, expected := none }
  | .ok ops, [.arrow, .num n] =>
    match asField 32 n, ops.getLast? with
    | .ok v, some i => if i.isWrite then .error .valueWithoutRead else .ok { ops := ops, expected := some v }
    | .error e, _ => .error e
    | _, none => .error .valueWithoutRead
  | .ok _, _ => .error .unknownLine
  | .error e, _ => .error e

/-- One line of a host program (R94), taken alone: a `-> value` with no read before it on the line is refused here;
`assemble`, which sees the line above, reads it (DESIGN CHOICE, log entry 14). -/
def assembleLine (line : List Char) : Except AsmError AsmLine :=
  match scan .gap line with
  | .error e => .error e
  | .ok ts => assembleTokens ts

/-- A line that starts with `->` ends the line directly above it. R94 lets a read line end with `-> value` and does not
say whether the value may stand on a line of its own; program P4 of 95_test_vectors.md writes it so, and the model reads
it so (DESIGN CHOICE, log entry 14). -/
def joinValues : List (List Token) → List (List Token)
  | ts :: (.arrow :: vs) :: rest => (ts ++ .arrow :: vs) :: joinValues rest
  | ts :: rest => ts :: joinValues rest
  | [] => []

/-- A host program, one line after the other (R94), a value on a line of its own read with the line above it
(DESIGN CHOICE, log entry 14). -/
def assemble (lines : List (List Char)) : Except AsmError (List AsmLine) :=
  match lines.mapM (scan .gap) with
  | .error e => .error e
  | .ok tss => (joinValues tss).mapM assembleTokens

/-- The transactions of operations, in order (R80). -/
def transactions (ops : List Instr) : List TWord := ops.map encode

end Sys2Proof.Machine
end

