-- ==== Sys2Proof/Safety.lean ====
section
/-! DEFINITION. What statements about the machine are made of: runs of several operations, the invariants of R37 and of the retained frame (R25, R150), and well-formed frames (R151). -/

namespace Sys2Proof.Machine

open Sys2Proof

/-! ## The state after an operation, said by what changes -/

/-- The block becomes `k`; the operation returns no value, pulses nothing and records nothing. `tx` and the queue stay. -/
def State.wrote (s : State) (k : Block) : State :=
  { s with block := k, out := { rdata := none, frameDone := false, event := none } }

/-- The operation returns `v`; nothing else of the machine changes. -/
def State.readBack (s : State) (v : Word) : State :=
  { s with out := { rdata := some v, frameDone := false, event := none } }

/-- The operation raised `e`: of the block only the sticky bits change, to `f`. `tx` and the queue stay. -/
def State.raised (s : State) (f : Sticky) (e : Event) : State :=
  { s with block := { s.block with sticky := f }, out := { rdata := none, frameDone := false, event := some e } }

/-- A DEC.BYTE left the decoder at `d`, with this `frame_done` pulse and this event; nothing else of the machine changes. -/
def State.decoded (s : State) (d : Decoder) (pulse : Bool) (e : Option Event) : State :=
  { s with block := { s.block with dec := d }, out := { rdata := none, frameDone := pulse, event := e } }

/-! ## The words of an operation -/

/-- Every read of `a`, whatever its ignored data, is the operation `i` (R87). -/
abbrev ReadAt (a : Byte) (i : Instr) : Prop := ∀ d : Word, decode (tword false a d) = i

/-- Every write to `a` is the operation `op` on the whole data word (R83). -/
abbrev WordWriteAt (a : Byte) (op : Word → Instr) : Prop := ∀ d : Word, decode (tword true a d) = op d

/-- A write to `a` with a zero reserved field is the operation `op` on the byte; with a non-zero one it is illegal (R82, R86). -/
abbrev ByteWriteAt (a : Byte) (op : Byte → Instr) : Prop :=
  (∀ b : Byte, decode (tword true a (b.zeroExtend 32)) = op b) ∧
  (∀ d : Word, d.extractLsb' 8 24 ≠ 0 → decode (tword true a d) = .wrIllegal a d)

/-- The effect of an illegal write, in every state: ILLOP is set and nothing else of the machine but its outputs changes (R241). -/
abbrev IllegalAt (a : Byte) (d : Word) : Prop :=
  ∀ s : State, exec (.wrIllegal a d) s = .next (s.raised { s.block.sticky with illop := true } .illegalAccess)

/-- A byte-form or tries-form register: its legal words are the operation `op`, and every word with a reserved bit set
raises IllegalAccess and changes nothing else (R82, R86, R241). -/
abbrev ByteOperation (a : Byte) (op : Byte → Instr) : Prop :=
  ByteWriteAt a op ∧ ∀ d : Word, d.extractLsb' 8 24 ≠ 0 → IllegalAt a d

/-! ## Runs -/

/-- The operations performed one after the other, stopping at the first fault or refusal (R73). -/
def runOps : List Instr → State → Result
  | [], s => .next s
  | i :: is, s =>
    match exec i s with
    | .next t => runOps is t
    | .fault f => .fault f
    | .refused r => .refused r

/-- One DEC.BYTE per byte, in order. -/
def feed (bs : List Byte) (s : State) : Result := runOps (bs.map Instr.decByte) s

/-- One ARB.RX per byte, in order. -/
def receive (bs : List Byte) (s : State) : Result := runOps (bs.map Instr.arbRx) s

/-- The operand of a DEC.BYTE. -/
def decOperand : Instr → Option Byte
  | .decByte b => some b
  | _ => none

/-- The operand of a CRC.BYTE. -/
def crcOperand : Instr → Option Byte
  | .crcByte b => some b
  | _ => none

/-- The operand of an ARB.RX. -/
def rxOperand : Instr → Option Byte
  | .arbRx b => some b
  | _ => none

/-- The microseconds an operation adds to the time of the arbiter (R253). -/
def tickOperand : Instr → Nat
  | .arbTick d => d.toNat
  | _ => 0

/-- The microseconds that the ARB.TICK operations of a run add up to. -/
def totalTicks (ops : List Instr) : Nat := (ops.map tickOperand).sum

/-- The unit an operation belongs to (R1): the sections of the spec that give it. -/
inductive FunctionalUnit where
  | control
  | crc
  | decoder
  | arbiter
  | bus
deriving DecidableEq, Repr

/-- The unit of every operation. -/
def unitOf : Instr → FunctionalUnit
  | .rdCaps0 | .rdCaps1 | .rdCaps2 | .rdCaps3 | .ctlReset | .ctlDecrst | .ctlClrerr | .ctlClrcnt | .rdStatus => .control
  | .crcSeed _ | .rdCrcVal | .crcByte _ => .crc
  | .decByte _ | .rdDecResult | .rdDecStatus | .rdDecRead | .rdDecMsginfo | .rdDecRxcrc | .rdDecCalccrc => .decoder
  | .fbufSel _ _ | .rdFbufSel | .rdFbufData | .rdBadcrcCnt | .rdDropCnt => .decoder
  | .arbStart | .arbAbort | .arbIoerr | .arbClrcmd | .arbClrpat | .rdArbStatus => .arbiter
  | .arbBudget _ | .rdArbBudget | .arbTries _ | .rdArbTries | .arbCmd _ | .arbPat _ | .arbRx _ | .arbTick _ => .arbiter
  | .rdArbLen | .rdArbElapsedLo | .rdArbElapsedHi => .arbiter
  | .wrIllegal _ _ | .rdZero _ => .bus

/-! ## Invariants of the decoder -/

/-- The states in which no header byte is stored yet: SYNC1, SYNC2, SYNC3, HDRLEN. -/
def DState.beforeHeader : DState → Bool
  | .sync1 | .sync2 | .sync3 | .hdrlen => true
  | _ => false

/-- The states that take the trailer: CK1 to CK4. -/
def DState.inTrailer : DState → Bool
  | .ck1 | .ck2 | .ck3 | .ck4 => true
  | _ => false

/-- What R37 says of the decoder's counters. -/
abbrev Decoder.Counts (c : Config) (d : Decoder) : Prop :=
  d.read.toNat ≤ c.hdrCap + c.payCap ∧
  (d.dstate = .hdr → 4 ≤ d.read.toNat ∧ d.read.toNat ≤ c.hdrCap ∧ d.read.toNat < d.hdrLen.toNat) ∧
  (d.dstate = .pay → d.hdrLen.toNat ≤ d.read.toNat ∧ d.read.toNat < d.hdrLen.toNat + d.msgLen.toNat ∧
    d.read.toNat - d.hdrLen.toNat ≤ c.payCap) ∧
  (d.dstate.beforeHeader = true → d.read = 0) ∧
  (d.dstate.inTrailer = true → d.read.toNat = d.hdrLen.toNat + d.msgLen.toNat) ∧
  (c.hdrMinLen ≤ d.hdrLen.toNat ∨ d.hdrLen = 0)

/-- The accepted lengths fit the buffers: what R37 needs to be kept by every operation, and the CK4 span to lie in the buffers. -/
abbrev Decoder.Fits (c : Config) (d : Decoder) : Prop :=
  (d.dstate = .pay ∨ d.dstate.inTrailer = true → c.hdrMinLen ≤ d.hdrLen.toNat ∧ d.hdrLen.toNat ≤ c.hdrCap) ∧
  (d.dstate.inTrailer = true → d.msgLen.toNat ≤ c.payCap)

/-- The invariant of the decoder: R37, the accepted lengths, and the canonical form of its two buffers. -/
abbrev Decoder.Inv (c : Config) (d : Decoder) : Prop :=
  d.Counts c ∧ d.Fits c ∧ Memory.wf c.hdrCap d.hdr = true ∧ Memory.wf c.payCap d.pay = true

/-! ## Invariant of the arbiter and of the machine -/

/-- The invariant of the arbiter: R37, `match_len` at most `pat_len` (R34), and the canonical form of its two buffers. -/
abbrev Arbiter.Inv (c : Config) (a : Arbiter) : Prop :=
  a.cmdLen.toNat ≤ c.cmdCap ∧ a.patLen.toNat ≤ c.patCap ∧ 1 ≤ a.maxTries.toNat ∧ a.matchLen.toNat ≤ a.patLen.toNat ∧
  (a.astate = .wait → a.matchLen.toNat < a.patLen.toNat ∧ 1 ≤ a.attempts.toNat ∧ a.attempts.toNat ≤ a.maxTries.toNat) ∧
  Memory.wf c.cmdCap a.cmd = true ∧ Memory.wf c.patCap a.pat = true

/-- The invariant of the block at a configuration. -/
abbrev Block.Inv (c : Config) (k : Block) : Prop := k.dec.Inv c ∧ k.arb.Inv c

/-- The invariant of the machine: legal parameters (R8), and the invariant of the block at them. -/
abbrev State.Inv (s : State) : Prop := s.cfg.Legal ∧ s.block.Inv s.cfg

/-! ## Frames -/

/-- `LE16` of a byte sequence at an offset: the byte at `o` is the less significant (R13). -/
def listLe16 (h : List Byte) (o : Nat) : BitVec 16 := h.getD (o + 1) 0 ++ h.getD o 0

/-- A header and a payload that meet the length conditions of R151: the preamble, the header length in byte 3, the
payload length in the header's field, both within the buffers. -/
abbrev FrameBody (c : Config) (h p : List Byte) : Prop :=
  c.hdrMinLen ≤ h.length ∧ h.length ≤ c.hdrCap ∧ h.take 3 = [0xAA, 0x44, 0xB5] ∧ (h.getD 3 0).toNat = h.length ∧
  p.length ≤ c.payCap ∧ (listLe16 h c.msglenOffset).toNat = p.length

/-- The four trailer bytes of a CRC value, least significant first (R9, R69). -/
def trailerOf (v : Word) : List Byte := [v.extractLsb' 0 8, v.extractLsb' 8 8, v.extractLsb' 16 8, v.extractLsb' 24 8]

/-- A whole well-formed frame: header, payload and the trailer of their two-stage CRC (R151). -/
def frameBytes (h p : List Byte) : List Byte := h ++ p ++ trailerOf (crc32Frame h p)

/-- The bytes that a send emits: `cmd[0..cmd_len)` (R174). -/
def Arbiter.command (a : Arbiter) : List Byte := Memory.bytes a.cmd a.cmdLen.toNat

/-- The bytes the arbiter looks for: `pat[0..pat_len)` (R33). -/
def Arbiter.pattern (a : Arbiter) : List Byte := Memory.bytes a.pat a.patLen.toNat

/-- The first `hdr_len` bytes of the header buffer. -/
def Decoder.header (d : Decoder) : List Byte := Memory.bytes d.hdr d.hdrLen.toNat

/-- The first `msg_len` bytes of the payload buffer. -/
def Decoder.payload (d : Decoder) : List Byte := Memory.bytes d.pay d.msgLen.toNat

/-- While a frame is being taken, `frame_valid` is 0 and the header buffer starts with the preamble and the header
length; once the header is complete, `msg_len` is its length field (R126, R128). -/
abbrev Decoder.InFrame (c : Config) (d : Decoder) : Prop :=
  (d.dstate.beforeHeader = false → d.frameValid = false ∧ Memory.bytes d.hdr 4 = [0xAA, 0x44, 0xB5, d.hdrLen]) ∧
  (d.dstate = .pay ∨ d.dstate.inTrailer = true → d.msgLen = le16 d.hdr c.msglenOffset)

/-- `frame_valid` is 1 only while the buffers hold a completed, CRC-checked frame (R25, R150). -/
abbrev Decoder.RetainsFrame (c : Config) (d : Decoder) : Prop :=
  d.frameValid = true →
    FrameBody c d.header d.payload ∧ d.calcCrc = crc32Frame d.header d.payload ∧ d.rxCrc = d.calcCrc

/-- The invariant of the retained frame, beside `State.Inv`. -/
abbrev State.FrameInv (s : State) : Prop := s.block.dec.InFrame s.cfg ∧ s.block.dec.RetainsFrame s.cfg

end Sys2Proof.Machine
end

