-- ==== Sys2Proof/Certificates/Slice0/Obligations.lean ====
section
/-! DEFINITION. The statements for the provers, from the numbered rules of the spec. Each docstring names the rules it formalises, or says what is the model's own. -/

open Sys2Proof Sys2Proof.Machine

/-! ## Encoding -/

/-- Decoding the word of a well-formed operation gives the operation back, with every operand at every value (R80, R82 to R92). -/
def Obligations.DecodeReadsBackEveryEncodedOperation : Prop :=
  ∀ i : Instr, i.wellFormed = true → decode (encode i) = i

/-- Encoding what a word decodes to gives the word back; a read's ignored data field comes back as 0 (R80, R87). -/
def Obligations.EncodeWritesBackEveryDecodedWord : Prop :=
  ∀ t : TWord, encode (decode t) = if TWord.w t = true then t else tword false (TWord.a t) 0

/-- The decoder, written by operand forms, selects what rule R81 selects by mask and match: at most one legal row
matches a word; a matching row gives the operation its mnemonic; with no matching row the direction picks the fallback row. -/
def Obligations.DecodeSelectsTheRowOfTheOpcodeTable : Prop :=
  ∀ t : TWord,
    (∀ r ∈ opcodeTable, ∀ r' ∈ opcodeTable, rowSelects r t = true → rowSelects r' t = true → r = r') ∧
    (∀ r ∈ opcodeTable, rowSelects r t = true → (decode t).mnemonic = r.mnemonic) ∧
    ((∀ r ∈ opcodeTable, rowSelects r t = false) →
      decode t = if TWord.w t = true then .wrIllegal (TWord.a t) (TWord.d t) else .rdZero (TWord.a t))

/-- The writes that match no legal row are exactly the five cases of R89, and each of them raises IllegalAccess: ILLOP is
set and nothing else changes (R89, R91). -/
def Obligations.IllegalWritesAreExactlyTheFiveCases : Prop :=
  ∀ (a : Byte) (d : Word),
    (illegalWrite a d = true ↔ ∀ r ∈ opcodeTable, rowSelects r (tword true a d) = false) ∧
    (illegalWrite a d = true → ∀ s : State,
      decode (tword true a d) = .wrIllegal a d ∧
      exec (.wrIllegal a d) s = .next (s.raised { s.block.sticky with illop := true } .illegalAccess))

/-- The reads that match no legal row are the misaligned, the unmapped and the write-only ones; each returns 0 and
changes nothing (R90, R92). -/
def Obligations.ReadsThatMatchNoRowReturnZero : Prop :=
  ∀ (a : Byte) (d : Word),
    (zeroRead a = true ↔ ∀ r ∈ opcodeTable, rowSelects r (tword false a d) = false) ∧
    (zeroRead a = true → ∀ s : State, decode (tword false a d) = .rdZero a ∧ exec (.rdZero a) s = .next (s.readBack 0))

/-- Every one of the `2^41` words decodes to a well-formed operation of its own direction (R81). -/
def Obligations.EveryWordDecodesToAWellFormedOperation : Prop :=
  ∀ t : TWord, (decode t).wellFormed = true ∧ (decode t).isWrite = TWord.w t

/-- Words written out from the spec's encodings and its example words decode to the operations they stand for. -/
def Obligations.WrittenOutWordsDecodeRight : Prop :=
  decode 0x140000000AA = .decByte 0xAA ∧ decode 0x12012345678 = .crcSeed 0x12345678 ∧
  decode 0x15C00010003 = .fbufSel .pay 3 ∧ decode 0x18C00000002 = .arbTries 2 ∧ decode 0x18000000010 = .arbClrpat ∧
  decode 0x19C000003E9 = .arbTick 1001 ∧ decode 0x04800000000 = .rdDecStatus ∧ decode 0x11000000002 = .ctlDecrst ∧
  decode 0x14000000144 = .wrIllegal 0x40 0x144 ∧ decode 0x0FC00000000 = .rdZero 0xFC

/-! ## Steps and runs -/

/-- A step performs the operation that the oldest pending transaction encodes, on the state with that transaction taken
from the queue; with none pending it leaves the machine as it is. The queue is the model's own (log entries 1 and 2). -/
def Obligations.StepPerformsTheDecodedOperation : Prop :=
  (∀ (i : Instr) (s : State) (rest : List TWord), i.wellFormed = true →
    step { s with bus := encode i :: rest } = exec i { s with bus := rest }) ∧
  (∀ (t : TWord) (s : State) (rest : List TWord), step { s with bus := t :: rest } = exec (decode t) { s with bus := rest }) ∧
  (∀ s : State, step { s with bus := [] } = .next { s with bus := [] })

/-- Transactions take effect in the order the host issues them, one at a time: a run over the queued words of a list of
operations is the operations performed one after the other (R73; the queue is the model's own, log entry 1). -/
def Obligations.QueuedTransactionsRunInIssueOrder : Prop :=
  ∀ (ops : List Instr) (s : State) (rest : List TWord), (∀ i ∈ ops, i.wellFormed = true) →
    Host.Core.run core ops.length { s with bus := ops.map encode ++ rest } = runOps ops { s with bus := rest }

/-! ## Reset -/

/-- Power-on reset and CTL.RESET leave every element of the block at its value of R58; CTL.RESET is legal in every state
(R58, R224). -/
def Obligations.ResetSetsEveryElementToItsValue : Prop :=
  decode (tword true 0x10 0x1) = .ctlReset ∧
  (∀ s : State, exec .ctlReset s = .next (s.wrote State.reset.block)) ∧
  State.reset.block.crc = 0 ∧
  State.reset.block.dec.dstate = .sync1 ∧ State.reset.block.dec.read = 0 ∧ State.reset.block.dec.hdrLen = 0 ∧
  State.reset.block.dec.msgLen = 0 ∧ State.reset.block.dec.rxCrc = 0 ∧ State.reset.block.dec.calcCrc = 0 ∧
  State.reset.block.dec.frameValid = false ∧ State.reset.block.dec.decResult = 0 ∧
  (∀ i, Memory.read State.reset.block.dec.hdr i = 0) ∧ (∀ i, Memory.read State.reset.block.dec.pay i = 0) ∧
  State.reset.block.dec.fsel = 0 ∧ State.reset.block.dec.badcrcCnt = 0 ∧ State.reset.block.dec.dropCnt = 0 ∧
  State.reset.block.arb.astate = .idle ∧ State.reset.block.arb.budget = 0 ∧ State.reset.block.arb.maxTries = 1 ∧
  (∀ i, Memory.read State.reset.block.arb.cmd i = 0) ∧ (∀ i, Memory.read State.reset.block.arb.pat i = 0) ∧
  State.reset.block.arb.cmdLen = 0 ∧ State.reset.block.arb.patLen = 0 ∧ State.reset.block.arb.attempts = 0 ∧
  State.reset.block.arb.matchLen = 0 ∧ State.reset.block.arb.elapsed = 0 ∧
  State.reset.block.sticky = { illop := false, cmdovf := false, patovf := false, busy := false }

/-- Reset emits no `tx` bytes and does not pulse `frame_done`; after it `arb_done` and `err` are 0; the parameters of the
build and so the CAPS registers read what they read before (the spec's own inference R59: "After reset `arb_done` and `err` are 0"). -/
def Obligations.ResetIsSilentAndLeavesTheCapabilities : Prop :=
  (State.reset.tx = [] ∧ State.reset.out.frameDone = false ∧ State.reset.arbDone = false ∧ State.reset.err = false) ∧
  (∀ s : State, ∃ t, exec .ctlReset s = .next t ∧ t.cfg = s.cfg ∧ t.tx = s.tx ∧ t.out.frameDone = false ∧ t.arbDone = false ∧ t.err = false ∧
    (∀ i ∈ [Instr.rdCaps0, .rdCaps1, .rdCaps2, .rdCaps3], ∃ v,
      exec i s = .next (s.readBack v) ∧ exec i t = .next (t.readBack v)))

/-! ## Block control -/

/-- The capability reads return the parameters of the build, packed as their rules write them, in every state and change
nothing (R220 to R223); at the chosen values of R8 that is the four words of their examples. -/
def Obligations.CapabilityReadsReturnTheChosenParameters : Prop :=
  (ReadAt 0x00 .rdCaps0 ∧ ReadAt 0x04 .rdCaps1 ∧ ReadAt 0x08 .rdCaps2 ∧ ReadAt 0x0C .rdCaps3) ∧
  (∀ s : State,
    exec .rdCaps0 s = .next (s.readBack (BitVec.ofNat 32 s.cfg.hdrCap ||| (BitVec.ofNat 32 s.cfg.payCap <<< 8))) ∧
    exec .rdCaps1 s = .next (s.readBack (BitVec.ofNat 32 s.cfg.cmdCap ||| (BitVec.ofNat 32 s.cfg.patCap <<< 8))) ∧
    exec .rdCaps2 s = .next (s.readBack (BitVec.ofNat 32 s.cfg.timeoutMult)) ∧
    exec .rdCaps3 s = .next (s.readBack (BitVec.ofNat 32 s.cfg.msgidOffset ||| (BitVec.ofNat 32 s.cfg.msglenOffset <<< 8) |||
      (BitVec.ofNat 32 (max s.cfg.msgidOffset s.cfg.msglenOffset + 2) <<< 16)))) ∧
  (∀ s : State, s.cfg = State.reset.cfg →
    exec .rdCaps0 s = .next (s.readBack 0x0002001C) ∧ exec .rdCaps1 s = .next (s.readBack 0x0000FFFF) ∧
    exec .rdCaps2 s = .next (s.readBack 0x000003E8) ∧ exec .rdCaps3 s = .next (s.readBack 0x000A0804))

/-- At every legal configuration the capability registers report each parameter in its own field, the reserved fields 0
(the fields of R39 to R42 over the legal ranges of R8). -/
def Obligations.CapabilityFieldsReportEveryLegalParameter : Prop :=
  ∀ c : Config, c.Legal →
    ((caps0 c).extractLsb' 0 8).toNat = c.hdrCap ∧ ((caps0 c).extractLsb' 8 16).toNat = c.payCap ∧
    (caps0 c).extractLsb' 24 8 = 0 ∧
    ((caps1 c).extractLsb' 0 8).toNat = c.cmdCap ∧ ((caps1 c).extractLsb' 8 8).toNat = c.patCap ∧
    (caps1 c).extractLsb' 16 16 = 0 ∧
    (caps2 c).toNat = c.timeoutMult ∧
    ((caps3 c).extractLsb' 0 8).toNat = c.msgidOffset ∧ ((caps3 c).extractLsb' 8 8).toNat = c.msglenOffset ∧
    ((caps3 c).extractLsb' 16 8).toNat = c.hdrMinLen ∧ (caps3 c).extractLsb' 24 8 = 0

/-- RD.STATUS reports the four sticky bits in bits 3:0, 0 above them, and clears nothing; `err` is 1 exactly when the
value is not 0 (R228). -/
def Obligations.StatusReadReportsTheStickyBits : Prop :=
  ReadAt 0x14 .rdStatus ∧
  ∀ s : State, ∃ v : Word, exec .rdStatus s = .next (s.readBack v) ∧
    v.getLsbD 0 = s.block.sticky.illop ∧ v.getLsbD 1 = s.block.sticky.cmdovf ∧
    v.getLsbD 2 = s.block.sticky.patovf ∧ v.getLsbD 3 = s.block.sticky.busy ∧ v.extractLsb' 4 28 = 0 ∧
    (s.err = true ↔ v ≠ 0)

/-- CTL.DECRST, CTL.CLRERR and CTL.CLRCNT change exactly the elements their rules name, in every state (R225, R226, R227). -/
def Obligations.ControlCommandsChangeOnlyTheirElements : Prop :=
  (decode (tword true 0x10 0x2) = .ctlDecrst ∧ decode (tword true 0x10 0x4) = .ctlClrerr ∧
    decode (tword true 0x10 0x8) = .ctlClrcnt) ∧
  ∀ s : State,
    exec .ctlDecrst s = .next (s.wrote { s.block with
      dec := { s.block.dec with dstate := .sync1, read := 0, frameValid := false, decResult := 0 } }) ∧
    exec .ctlClrerr s = .next (s.wrote { s.block with
      sticky := { illop := false, cmdovf := false, patovf := false, busy := false } }) ∧
    exec .ctlClrcnt s = .next (s.wrote { s.block with dec := { s.block.dec with badcrcCnt := 0, dropCnt := 0 } })

/-! ## CRC unit -/

/-- CRC.SEED loads the register, CRC.BYTE folds one byte into it, RD.CRC_VAL returns it; a CRC_DATA write with a reserved
bit set raises IllegalAccess and leaves the register; nothing else changes (R103, R104, R106). The fold is the bit-serial
one of R100, written out here: the byte exclusive-ored into the register, then eight shifts right, each exclusive-ored
with 0xEDB88320 when the bit shifted out is 1. -/
def Obligations.CrcOperationsLoadFoldAndReturn : Prop :=
  (WordWriteAt 0x20 .crcSeed ∧ ByteOperation 0x24 .crcByte ∧ ReadAt 0x20 .rdCrcVal) ∧
  ∀ s : State,
    (∀ v, exec (.crcSeed v) s = .next (s.wrote { s.block with crc := v })) ∧
    (∀ b, exec (.crcByte b) s = .next (s.wrote { s.block with
      crc := (fun t : Word => if t.getLsbD 0 = true then (t >>> 1) ^^^ 0xEDB88320 else t >>> 1)^[8] (s.block.crc ^^^ b.zeroExtend 32) })) ∧
    exec .rdCrcVal s = .next (s.readBack s.block.crc)

/-- CRC.BLOCK leaves and returns `crc32_block(seed, bytes)` and changes nothing else; with operations of other units
between the CRC.BYTE operations, none of them CRC.SEED or CTL.RESET, the register is the fold of the CRC.BYTE operands;
CRC.BLOCK over a header and CRC.BYTE over the payload give the two-stage checksum (the spec's own inference R105: "after
CRC.SEED `seedCRC` and `length` CRC.BYTE operations, RD.CRC_VAL returns `crc32_block(seedCRC, buffer[0..length))`"). -/
def Obligations.CrcBlockComputesTheBlockFunction : Prop :=
  (∀ (seed : Word) (bs : List Byte) (s : State), runOps (crcBlockOps seed bs) s =
    .next (State.readBack { s with block := { s.block with crc := crc32Block seed bs } } (crc32Block seed bs))) ∧
  (∀ (seed : Word) (ops : List Instr) (s t : State), (∀ i ∈ ops, i ≠ .ctlReset ∧ ∀ v, i ≠ .crcSeed v) →
    runOps (.crcSeed seed :: ops) s = .next t →
    t.block.crc = crc32Block seed (ops.filterMap crcOperand) ∧
    exec .rdCrcVal t = .next (t.readBack (crc32Block seed (ops.filterMap crcOperand)))) ∧
  (∀ (h p : List Byte) (s : State), ∃ t, runOps (crcBlockOps 0 h ++ p.map Instr.crcByte) s = .next t ∧
    t.block.crc = crc32Frame h p)

/-- The CRC function: one byte is the bit-serial fold of R100 written out, a block folds byte after byte (R101), and the
laws the spec infers from them (R107 (a) to (d), R102): the empty block, zero bytes from seed 0, linearity over exclusive-or
for equal lengths, the table form of one byte, two stages as one pass. With them the values that fix the function among all
of that form: of the eight one-bit bytes, which linearity and the table form extend to every byte, and of "123456789" from
both seeds (0x77073096 is R104's example; the last two are R108's). -/
def Obligations.CrcFunctionObeysItsLaws : Prop :=
  (∀ (c : Word) (b : Byte), crc32Byte c b =
    (fun t : Word => if t.getLsbD 0 = true then (t >>> 1) ^^^ 0xEDB88320 else t >>> 1)^[8] (c ^^^ b.zeroExtend 32)) ∧
  (∀ (seed : Word) (bs : List Byte) (b : Byte), crc32Block seed (bs ++ [b]) = crc32Byte (crc32Block seed bs) b) ∧
  (∀ seed, crc32Block seed [] = seed) ∧
  (∀ n, crc32Block 0 (List.replicate n 0) = 0) ∧
  (∀ (a b : Word) (s t : List Byte), s.length = t.length →
    crc32Block (a ^^^ b) (List.zipWith (· ^^^ ·) s t) = crc32Block a s ^^^ crc32Block b t) ∧
  (∀ (c : Word) (b : Byte), crc32Byte c b = (c >>> 8) ^^^ crc32Byte 0 (c.extractLsb' 0 8 ^^^ b)) ∧
  (∀ h p : List Byte, crc32Frame h p = crc32Block 0 (h ++ p)) ∧
  (crc32Byte 0 0x01 = 0x77073096 ∧ crc32Byte 0 0x02 = 0xEE0E612C ∧ crc32Byte 0 0x04 = 0x076DC419 ∧
    crc32Byte 0 0x08 = 0x0EDB8832 ∧ crc32Byte 0 0x10 = 0x1DB71064 ∧ crc32Byte 0 0x20 = 0x3B6E20C8 ∧
    crc32Byte 0 0x40 = 0x76DC4190 ∧ crc32Byte 0 0x80 = 0xEDB88320) ∧
  (crc32Block 0 [0x31, 0x32, 0x33, 0x34, 0x35, 0x36, 0x37, 0x38, 0x39] = 0x2DFD2D88 ∧
    crc32Block 0xFFFFFFFF [0x31, 0x32, 0x33, 0x34, 0x35, 0x36, 0x37, 0x38, 0x39] = 0x340BC6D9)

/-- Two byte sequences that differ in exactly one byte have different CRCs from every seed, so every single-bit error is
detected (the consequence that R107 draws: "flipping any single bit of a fixed-length message changes the result"). -/
def Obligations.OneChangedByteChangesTheCrc : Prop :=
  ∀ (seed : Word) (l r : List Byte) (x y : Byte), x ≠ y → crc32Block seed (l ++ x :: r) ≠ crc32Block seed (l ++ y :: r)

/-! ## Frame decoder: the transition relation -/

/-- DEC.BYTE in SYNC1, SYNC2, SYNC3 and HDRLEN (R123, R124, R125, R126): the preamble bytes advance, any other byte
restarts; a header length below `HDR_MIN_LEN` is dropped and counted; an accepted one seeds header bytes 0 to 3 and
leaves every other header byte. The build's parameters are any legal ones. -/
def Obligations.PreambleAndLengthSteps : Prop :=
  ByteOperation 0x40 .decByte ∧
  ∀ (s : State) (b : Byte),
    (s.block.dec.dstate = .sync1 → exec (.decByte b) s =
      .next (s.decoded { s.block.dec with dstate := if b = 0xAA then .sync2 else .sync1, decResult := 0 } false none)) ∧
    (s.block.dec.dstate = .sync2 → exec (.decByte b) s =
      .next (s.decoded (if b = 0x44 then { s.block.dec with dstate := .sync3, decResult := 0 }
        else { s.block.dec with dstate := .sync1, read := 0, decResult := 0 }) false none)) ∧
    (s.block.dec.dstate = .sync3 → exec (.decByte b) s =
      .next (s.decoded (if b = 0xB5 then { s.block.dec with dstate := .hdrlen, decResult := 0 }
        else { s.block.dec with dstate := .sync1, read := 0, decResult := 0 }) false none)) ∧
    (s.block.dec.dstate = .hdrlen → b.toNat < s.cfg.hdrMinLen → exec (.decByte b) s =
      .next (s.decoded { s.block.dec with dstate := .sync1, read := 0, dropCnt := s.block.dec.dropCnt + 1, decResult := 0 }
        false (some .frameDrop))) ∧
    (s.block.dec.dstate = .hdrlen → s.cfg.hdrMinLen ≤ b.toNat → s.cfg.Legal → Memory.wf s.cfg.hdrCap s.block.dec.hdr = true →
      ∃ m : Memory,
      exec (.decByte b) s = .next (s.decoded { s.block.dec with
        dstate := .hdr, hdr := m, hdrLen := b, read := 4, frameValid := false, decResult := 0 } false none) ∧
      Memory.wf s.cfg.hdrCap m = true ∧ Memory.read m 0 = 0xAA ∧ Memory.read m 1 = 0x44 ∧ Memory.read m 2 = 0xB5 ∧ Memory.read m 3 = b ∧
      ∀ k, 4 ≤ k → Memory.read m k = Memory.read s.block.dec.hdr k)

/-- DEC.BYTE in HDR (R127, R128): a full buffer restarts and counts; otherwise the byte goes to `hdr[read]` alone, and at
`hdr_len` bytes the payload length is the little-endian field at `MSGLEN_OFFSET` of the buffer as just written. -/
def Obligations.HeaderStepStoresAndCompletes : Prop :=
  ∀ (s : State) (b : Byte), s.cfg.Legal → s.block.dec.dstate = .hdr → Memory.wf s.cfg.hdrCap s.block.dec.hdr = true →
    (s.block.dec.read.toNat = s.cfg.hdrCap → exec (.decByte b) s =
      .next (s.decoded { s.block.dec with dstate := .sync1, read := 0, dropCnt := s.block.dec.dropCnt + 1, decResult := 0 }
        false (some .frameDrop))) ∧
    (s.block.dec.read.toNat < s.cfg.hdrCap → ∃ (m : Memory) (len : BitVec 16),
      Memory.wf s.cfg.hdrCap m = true ∧ Memory.read m s.block.dec.read.toNat = b ∧
      (∀ k, k ≠ s.block.dec.read.toNat → Memory.read m k = Memory.read s.block.dec.hdr k) ∧
      len = Memory.read m (s.cfg.msglenOffset + 1) ++ Memory.read m s.cfg.msglenOffset ∧
      (s.block.dec.read.toNat + 1 ≠ s.block.dec.hdrLen.toNat → exec (.decByte b) s =
        .next (s.decoded { s.block.dec with hdr := m, read := s.block.dec.read + 1, decResult := 0 } false none)) ∧
      (s.block.dec.read.toNat + 1 = s.block.dec.hdrLen.toNat → exec (.decByte b) s =
        .next (s.decoded { s.block.dec with
          hdr := m, read := s.block.dec.read + 1, msgLen := len, decResult := 0,
          dstate := if len.toNat = 0 then .ck1 else .pay } false none)))

/-- DEC.BYTE in PAY with `hdr_len <= read` (R129): a full buffer restarts and counts; otherwise the byte goes to
`pay[read - hdr_len]` alone, and at `hdr_len + msg_len` bytes the decoder goes to CK1. -/
def Obligations.PayloadStepStoresAndCompletes : Prop :=
  ∀ (s : State) (b : Byte), s.cfg.Legal → s.block.dec.dstate = .pay → Memory.wf s.cfg.payCap s.block.dec.pay = true →
    s.block.dec.hdrLen.toNat ≤ s.block.dec.read.toNat →
    (s.block.dec.read.toNat = s.block.dec.hdrLen.toNat + s.cfg.payCap → exec (.decByte b) s =
      .next (s.decoded { s.block.dec with dstate := .sync1, read := 0, dropCnt := s.block.dec.dropCnt + 1, decResult := 0 }
        false (some .frameDrop))) ∧
    (s.block.dec.read.toNat < s.block.dec.hdrLen.toNat + s.cfg.payCap → ∃ m : Memory,
      Memory.wf s.cfg.payCap m = true ∧ Memory.read m (s.block.dec.read.toNat - s.block.dec.hdrLen.toNat) = b ∧
      (∀ k, k ≠ s.block.dec.read.toNat - s.block.dec.hdrLen.toNat → Memory.read m k = Memory.read s.block.dec.pay k) ∧
      exec (.decByte b) s = .next (s.decoded { s.block.dec with
        pay := m, read := s.block.dec.read + 1, decResult := 0,
        dstate := if s.block.dec.read.toNat + 1 = s.block.dec.hdrLen.toNat + s.block.dec.msgLen.toNat then .ck1 else .pay }
        false none))

/-- DEC.BYTE in CK1, CK2 and CK3 (R130, R131, R132): the trailer is assembled least significant byte first. -/
def Obligations.TrailerStepsAssembleTheReceivedCrc : Prop :=
  ∀ (s : State) (b : Byte),
    (s.block.dec.dstate = .ck1 → exec (.decByte b) s =
      .next (s.decoded { s.block.dec with dstate := .ck2, rxCrc := b.zeroExtend 32, decResult := 0 } false none)) ∧
    (s.block.dec.dstate = .ck2 → exec (.decByte b) s =
      .next (s.decoded { s.block.dec with
        dstate := .ck3, rxCrc := s.block.dec.rxCrc ||| (b.zeroExtend 32 <<< 8), decResult := 0 } false none)) ∧
    (s.block.dec.dstate = .ck3 → exec (.decByte b) s =
      .next (s.decoded { s.block.dec with
        dstate := .ck4, rxCrc := s.block.dec.rxCrc ||| (b.zeroExtend 32 <<< 16), decResult := 0 } false none))

/-- DEC.BYTE in CK4 with the span inside the buffers (R133): the two-stage CRC over the header and payload
bytes is compared with the trailer; a match returns `read`, sets `frame_valid` and pulses; a mismatch counts and returns
0; both restart, and `crc` is not touched. -/
def Obligations.CheckStepAcceptsExactlyAMatchingTrailer : Prop :=
  ∀ (s : State) (b : Byte) (rx : Word), s.block.dec.dstate = .ck4 →
    s.block.dec.hdrLen.toNat ≤ s.cfg.hdrCap → s.block.dec.msgLen.toNat ≤ s.cfg.payCap → rx = s.block.dec.rxCrc ||| (b.zeroExtend 32 <<< 24) →
    (crc32Block (crc32Block 0 s.block.dec.header) s.block.dec.payload = rx → exec (.decByte b) s =
      .next (s.decoded { s.block.dec with
        dstate := .sync1, read := 0, rxCrc := rx, calcCrc := rx, frameValid := true, decResult := s.block.dec.read } true none)) ∧
    (crc32Block (crc32Block 0 s.block.dec.header) s.block.dec.payload ≠ rx → exec (.decByte b) s =
      .next (s.decoded { s.block.dec with
        dstate := .sync1, read := 0, rxCrc := rx, badcrcCnt := s.block.dec.badcrcCnt + 1, decResult := 0,
        calcCrc := crc32Block (crc32Block 0 s.block.dec.header) s.block.dec.payload } false (some .badChecksum)))

/-- The decoder's read registers return their elements, and change nothing (R139, R140, R141, R142, R143, R144, R148, R149):
DEC_STATUS holds the state's code, FRAME_VALID and `hdr_len` in their fields, DEC_MSGINFO the id read from the buffer now
and `msg_len`. -/
def Obligations.DecoderReadsReportTheirElements : Prop :=
  (ReadAt 0x44 .rdDecResult ∧ ReadAt 0x48 .rdDecStatus ∧ ReadAt 0x4C .rdDecRead ∧ ReadAt 0x50 .rdDecMsginfo ∧
    ReadAt 0x54 .rdDecRxcrc ∧ ReadAt 0x58 .rdDecCalccrc ∧ ReadAt 0x64 .rdBadcrcCnt ∧ ReadAt 0x68 .rdDropCnt) ∧
  ∀ s : State,
    exec .rdDecResult s = .next (s.readBack s.block.dec.decResult) ∧
    exec .rdDecRead s = .next (s.readBack s.block.dec.read) ∧
    exec .rdDecRxcrc s = .next (s.readBack s.block.dec.rxCrc) ∧
    exec .rdDecCalccrc s = .next (s.readBack s.block.dec.calcCrc) ∧
    exec .rdBadcrcCnt s = .next (s.readBack s.block.dec.badcrcCnt) ∧
    exec .rdDropCnt s = .next (s.readBack s.block.dec.dropCnt) ∧
    (∃ v : Word, exec .rdDecStatus s = .next (s.readBack v) ∧ v.extractLsb' 0 4 = s.block.dec.dstate.code ∧
      v.getLsbD 4 = s.block.dec.frameValid ∧ v.extractLsb' 5 3 = 0 ∧ v.extractLsb' 8 8 = s.block.dec.hdrLen ∧
      v.extractLsb' 16 16 = 0) ∧
    (∃ v : Word, exec .rdDecMsginfo s = .next (s.readBack v) ∧ v.extractLsb' 0 8 = Memory.read s.block.dec.hdr s.cfg.msgidOffset ∧
      v.extractLsb' 8 8 = Memory.read s.block.dec.hdr (s.cfg.msgidOffset + 1) ∧ v.extractLsb' 16 16 = s.block.dec.msgLen)

/-- FBUF.SEL stores the buffer bit and the index and nothing else; FBUF_SEL reads them back; FBUF_DATA returns the selected
byte in bits 7:0, and 0 at or beyond the buffer's capacity (R145, R146, R147). -/
def Obligations.BufferSelectAndReadReturnTheSelectedByte : Prop :=
  ((∀ (buf : BufSel) (idx : BitVec 16),
      decode (tword true 0x5C (((BitVec.ofBool buf.bit).zeroExtend 32 <<< 16) ||| idx.zeroExtend 32)) = .fbufSel buf idx) ∧
    ReadAt 0x5C .rdFbufSel ∧ ReadAt 0x60 .rdFbufData) ∧
  ∀ s : State,
    (∀ buf idx, ∃ f : BitVec 17, exec (.fbufSel buf idx) s = .next (s.wrote { s.block with dec := { s.block.dec with fsel := f } }) ∧
      f.extractLsb' 0 16 = idx ∧ f.getLsbD 16 = buf.bit) ∧
    (∀ d : Word, d.extractLsb' 17 15 ≠ 0 →
      exec (decode (tword true 0x5C d)) s = .next (s.raised { s.block.sticky with illop := true } .illegalAccess)) ∧
    (∃ v : Word, exec .rdFbufSel s = .next (s.readBack v) ∧ v.extractLsb' 0 17 = s.block.dec.fsel ∧ v.extractLsb' 17 15 = 0) ∧
    (∃ v : Word, exec .rdFbufData s = .next (s.readBack v) ∧ v.extractLsb' 8 24 = 0 ∧
      v.extractLsb' 0 8 =
        if s.block.dec.fsel.getLsbD 16 = true then
          if (s.block.dec.fsel.extractLsb' 0 16).toNat < s.cfg.payCap
            then Memory.read s.block.dec.pay (s.block.dec.fsel.extractLsb' 0 16).toNat else 0
        else
          if (s.block.dec.fsel.extractLsb' 0 16).toNat < s.cfg.hdrCap
            then Memory.read s.block.dec.hdr (s.block.dec.fsel.extractLsb' 0 16).toNat else 0)

/-! ## Frame decoder: whole frames -/

/-- A header and payload of legal lengths followed by ANY four bytes, fed from SYNC1: no byte before the last returns a
positive result; the last one compares those four bytes with the two-stage CRC of exactly those header and payload bytes,
returns the total length exactly on a match and counts exactly on a mismatch, and leaves the decoder in SYNC1 with the
frame's bytes in the buffers; the CRC unit's register is not touched (R134, R135, R136). -/
def Obligations.FramedBytesAreDecidedAtTheLastTrailerByte : Prop :=
  ∀ (s : State) (h p : List Byte) (t0 t1 t2 t3 : Byte), s.Inv → s.block.dec.dstate = .sync1 → FrameBody s.cfg h p →
    (∀ k, 0 < k → k < h.length + p.length + 4 → ∃ u, feed ((h ++ p ++ [t0, t1, t2, t3]).take k) s = .next u ∧
      u.block.dec.decResult = 0 ∧ u.out.frameDone = false) ∧
    (∃ t, feed (h ++ p ++ [t0, t1, t2, t3]) s = .next t ∧
      t.block.dec.dstate = .sync1 ∧ t.block.dec.read = 0 ∧ t.block.dec.header = h ∧ t.block.dec.payload = p ∧
      t.block.dec.hdrLen.toNat = h.length ∧ t.block.dec.msgLen.toNat = p.length ∧
      t.block.dec.rxCrc = t3 ++ t2 ++ t1 ++ t0 ∧ t.block.dec.calcCrc = crc32Frame h p ∧
      t.block.dec.dropCnt = s.block.dec.dropCnt ∧ t.block.dec.fsel = s.block.dec.fsel ∧
      t.block.crc = s.block.crc ∧ t.block.arb = s.block.arb ∧ t.block.sticky = s.block.sticky ∧ t.tx = s.tx ∧
      (t3 ++ t2 ++ t1 ++ t0 = crc32Frame h p →
        t.block.dec.decResult.toNat = h.length + p.length ∧ t.block.dec.frameValid = true ∧ t.out.frameDone = true ∧
        t.block.dec.badcrcCnt = s.block.dec.badcrcCnt) ∧
      (t3 ++ t2 ++ t1 ++ t0 ≠ crc32Frame h p →
        t.block.dec.decResult = 0 ∧ t.block.dec.frameValid = false ∧ t.out.frameDone = false ∧
        t.block.dec.badcrcCnt = s.block.dec.badcrcCnt + 1))

/-- Resynchronisation (the spec's own inference R152: "the decoder returns a positive result exactly once during `F`"): after any bytes that leave the decoder in SYNC1, and in particular after bytes without 0xAA
from SYNC1, a well-formed frame gives a positive result exactly once, at its last byte, equal to its length, and the
decoder ends in SYNC1. -/
def Obligations.WellFormedFrameCompletesExactlyOnce : Prop :=
  ∀ (s : State) (g h p : List Byte), s.Inv → FrameBody s.cfg h p →
    ((∃ u, feed g s = .next u ∧ u.block.dec.dstate = .sync1) ∨ (s.block.dec.dstate = .sync1 ∧ ∀ b ∈ g, b ≠ 0xAA)) →
    (∀ k, 0 < k → k < (frameBytes h p).length → ∃ u, feed (g ++ (frameBytes h p).take k) s = .next u ∧ u.block.dec.decResult = 0) ∧
    (∃ t, feed (g ++ frameBytes h p) s = .next t ∧ t.block.dec.decResult.toNat = h.length + p.length ∧
      0 < t.block.dec.decResult.toNat ∧ t.block.dec.dstate = .sync1)

/-- Detection guarantee (the spec's own inference R151): after CTL.DECRST or reset, whatever other operations run between the DEC.BYTEs, a positive
result stands only if the last DEC.BYTE operands form a well-formed frame of that length, begun in SYNC1. -/
def Obligations.PositiveResultOnlyAfterAWellFormedFrame : Prop :=
  ∀ (s : State) (first : Instr) (ops : List Instr) (t : State), s.Inv → (first = .ctlDecrst ∨ first = .ctlReset) →
    (∀ i ∈ ops, i ≠ .ctlDecrst ∧ i ≠ .ctlReset) → runOps (first :: ops) s = .next t → t.block.dec.decResult ≠ 0 →
    ∃ (before frame : List Instr) (u : State) (h p : List Byte), ops = before ++ frame ∧
      runOps (first :: before) s = .next u ∧ u.block.dec.dstate = .sync1 ∧ FrameBody s.cfg h p ∧
      frame.filterMap decOperand = frameBytes h p ∧ h.length + p.length = t.block.dec.decResult.toNat

/-- Single-bit errors (the spec's own inference R153): one flipped bit of a well-formed frame outside the preamble, the header length and the two
message-length bytes is rejected at the last byte and counted. -/
def Obligations.SingleBitErrorsAreRejected : Prop :=
  ∀ (s : State) (h p : List Byte) (pos bit : Nat), s.Inv → s.block.dec.dstate = .sync1 → FrameBody s.cfg h p →
    4 ≤ pos → pos ≠ s.cfg.msglenOffset → pos ≠ s.cfg.msglenOffset + 1 → pos < (frameBytes h p).length → bit < 8 →
    (∀ k, 0 < k → k < (frameBytes h p).length → ∃ u v,
      feed (((frameBytes h p).modify pos (· ^^^ BitVec.twoPow 8 bit)).take k) s = .next u ∧
      feed ((frameBytes h p).take k) s = .next v ∧ u.block.dec.dstate = v.block.dec.dstate) ∧
    (∃ t, feed ((frameBytes h p).modify pos (· ^^^ BitVec.twoPow 8 bit)) s = .next t ∧
      t.block.dec.decResult = 0 ∧ t.block.dec.badcrcCnt = s.block.dec.badcrcCnt + 1)

/-- Round trip (the spec's own inference R154): the CRC unit's value over header and payload, sent as the trailer, makes the decoder complete. -/
def Obligations.CrcUnitTrailerMakesTheDecoderMatch : Prop :=
  ∀ (s : State) (h p : List Byte), s.Inv → s.block.dec.dstate = .sync1 → FrameBody s.cfg h p →
    ∃ (u t : State) (c : Word), runOps (crcBlockOps 0 (h ++ p)) s = .next u ∧ u.out.rdata = some c ∧
      feed (h ++ p ++ [c.extractLsb' 0 8, c.extractLsb' 8 8, c.extractLsb' 16 8, c.extractLsb' 24 8]) u = .next t ∧
      t.block.dec.decResult.toNat = h.length + p.length ∧ t.block.crc = c

/-- Frame retention (R150): a DEC.BYTE that returns a positive result leaves `frame_valid` set and the decoder before a
header; from there every operation but an accepted header-length byte, CTL.DECRST and CTL.RESET keeps `frame_valid`, both
buffers, both lengths and both CRCs (and so DEC_MSGINFO); an accepted header-length byte and CTL.DECRST clear
`frame_valid`, and CTL.DECRST keeps the bytes. -/
def Obligations.CompletedFrameIsKeptUntilOverwritten : Prop :=
  (∀ (b : Byte) (s t : State), exec (.decByte b) s = .next t → t.block.dec.decResult ≠ 0 →
    t.block.dec.frameValid = true ∧ t.block.dec.dstate.beforeHeader = true) ∧
  (∀ (i : Instr) (s t : State), s.block.dec.frameValid = true → s.block.dec.dstate.beforeHeader = true →
    exec i s = .next t → i ≠ .ctlReset → i ≠ .ctlDecrst →
    (∀ b, i = .decByte b → s.block.dec.dstate = .hdrlen → b.toNat < s.cfg.hdrMinLen) →
    t.block.dec.frameValid = true ∧ t.block.dec.dstate.beforeHeader = true ∧
    t.block.dec.hdr = s.block.dec.hdr ∧ t.block.dec.pay = s.block.dec.pay ∧ t.block.dec.hdrLen = s.block.dec.hdrLen ∧
    t.block.dec.msgLen = s.block.dec.msgLen ∧ t.block.dec.rxCrc = s.block.dec.rxCrc ∧ t.block.dec.calcCrc = s.block.dec.calcCrc ∧
    exec .rdDecMsginfo t = .next (t.readBack (msgInfo s.cfg s.block.dec))) ∧
  (∀ (b : Byte) (s t : State), s.block.dec.dstate = .hdrlen → s.cfg.hdrMinLen ≤ b.toNat → exec (.decByte b) s = .next t →
    t.block.dec.frameValid = false) ∧
  (∀ s : State, ∃ t, exec .ctlDecrst s = .next t ∧ t.block.dec.frameValid = false ∧
    t.block.dec.hdr = s.block.dec.hdr ∧ t.block.dec.pay = s.block.dec.pay)

/-- While `frame_valid` is 1 the buffers hold a completed, CRC-checked frame (R25, of which this is one clause): every step
keeps that, with the invariant of the counters as the premise. -/
def Obligations.ValidFlagMeansACheckedFrameAfterEveryStep : Prop :=
  ∀ s t : State, s.Inv → s.FrameInv → step s = .next t → t.FrameInv

/-- After a completion the frame survives the next three DEC.BYTEs whatever they are (the spec's own inference R277: the
host has until "the fourth DEC.BYTE after the completing one"). -/
def Obligations.CompletedFrameSurvivesThreeBytes : Prop :=
  ∀ (s : State) (bs : List Byte), s.block.dec.dstate = .sync1 → s.block.dec.frameValid = true → bs.length ≤ 3 →
    ∃ t, feed bs s = .next t ∧ t.block.dec.frameValid = true ∧ t.block.dec.hdr = s.block.dec.hdr ∧
      t.block.dec.pay = s.block.dec.pay ∧ t.block.dec.hdrLen = s.block.dec.hdrLen ∧ t.block.dec.msgLen = s.block.dec.msgLen

/-! ## Command arbiter: one operation -/

/-- ARB.START outside WAIT (R175, with the send of R174): the command bytes leave on `tx` in order, one attempt is counted, time and match
restart, and the arbiter waits, or succeeds at once on an empty pattern. In WAIT it raises BusyReject. -/
def Obligations.StartSendsTheCommandAndWaits : Prop :=
  decode (tword true 0x80 0x01) = .arbStart ∧
  ∀ s : State,
    (s.block.arb.astate ≠ .wait → s.block.arb.cmdLen.toNat ≤ s.cfg.cmdCap → exec .arbStart s = .next { s.wrote { s.block with arb := { s.block.arb with
      astate := if s.block.arb.patLen = 0 then .success else .wait
      attempts := 1, elapsed := 0, matchLen := 0 } } with tx := s.tx ++ s.block.arb.command }) ∧
    (s.block.arb.astate = .wait → exec .arbStart s = .next (s.raised { s.block.sticky with busy := true } .busyReject))

/-- The busy rule (R242): in WAIT each of the seven configuration operations sets BUSY_ERR and changes nothing else. -/
def Obligations.ConfigurationIsRefusedWhileWaiting : Prop :=
  ∀ (s : State) (i : Instr), s.block.arb.astate = .wait →
    (i = .arbStart ∨ i = .arbClrcmd ∨ i = .arbClrpat ∨ (∃ v, i = .arbBudget v) ∨ (∃ n, i = .arbTries n) ∨
      (∃ b, i = .arbCmd b) ∨ (∃ b, i = .arbPat b)) →
    exec i s = .next (s.raised { s.block.sticky with busy := true } .busyReject)

/-- ARB.CLRCMD, ARB.CLRPAT, ARB.BUDGET and ARB.TRIES outside WAIT store their values and change nothing else, 0 tries
stored as 1; in WAIT each raises BusyReject; a reserved bit of ARB_TRIES raises IllegalAccess (R178, R179, R180, R181). -/
def Obligations.ConfigurationWritesStoreOutsideWait : Prop :=
  (decode (tword true 0x80 0x08) = .arbClrcmd ∧ decode (tword true 0x80 0x10) = .arbClrpat ∧
    WordWriteAt 0x88 .arbBudget ∧ ByteOperation 0x8C .arbTries) ∧
  ∀ s : State,
    (s.block.arb.astate ≠ .wait →
      exec .arbClrcmd s = .next (s.wrote { s.block with arb := { s.block.arb with cmdLen := 0 } }) ∧
      exec .arbClrpat s = .next (s.wrote { s.block with arb := { s.block.arb with patLen := 0, matchLen := 0 } }) ∧
      (∀ v, exec (.arbBudget v) s = .next (s.wrote { s.block with arb := { s.block.arb with budget := v } })) ∧
      (∀ n, n ≠ 0 → exec (.arbTries n) s = .next (s.wrote { s.block with arb := { s.block.arb with maxTries := n } })) ∧
      exec (.arbTries 0) s = .next (s.wrote { s.block with arb := { s.block.arb with maxTries := 1 } })) ∧
    (s.block.arb.astate = .wait → ∀ i : Instr,
      (i = .arbClrcmd ∨ i = .arbClrpat ∨ (∃ v, i = .arbBudget v) ∨ (∃ n, i = .arbTries n)) →
      exec i s = .next (s.raised { s.block.sticky with busy := true } .busyReject))

/-- ARB.CMD and ARB.PAT outside WAIT append one byte at the end and leave every other byte; a full buffer drops the byte
and sets CMD_OVF or PAT_OVF; in WAIT they raise BusyReject, and with a reserved bit set IllegalAccess (R182, R183, R243). -/
def Obligations.AppendStoresOneByteOrOverflows : Prop :=
  (ByteOperation 0x90 .arbCmd ∧ ByteOperation 0x94 .arbPat) ∧
  (∀ (s : State) (b : Byte), s.block.arb.astate = .wait →
    exec (.arbCmd b) s = .next (s.raised { s.block.sticky with busy := true } .busyReject) ∧
    exec (.arbPat b) s = .next (s.raised { s.block.sticky with busy := true } .busyReject)) ∧
  (∀ (s : State) (b : Byte), s.block.arb.astate ≠ .wait →
    Memory.wf s.cfg.cmdCap s.block.arb.cmd = true → Memory.wf s.cfg.patCap s.block.arb.pat = true →
    (s.block.arb.cmdLen.toNat < s.cfg.cmdCap → ∃ m : Memory,
      exec (.arbCmd b) s = .next (s.wrote { s.block with arb := { s.block.arb with cmd := m, cmdLen := s.block.arb.cmdLen + 1 } }) ∧
      Memory.wf s.cfg.cmdCap m = true ∧ Memory.read m s.block.arb.cmdLen.toNat = b ∧
      ∀ k, k ≠ s.block.arb.cmdLen.toNat → Memory.read m k = Memory.read s.block.arb.cmd k) ∧
    (s.block.arb.cmdLen.toNat = s.cfg.cmdCap →
      exec (.arbCmd b) s = .next (s.raised { s.block.sticky with cmdovf := true } .overflowCmd)) ∧
    (s.block.arb.patLen.toNat < s.cfg.patCap → ∃ m : Memory,
      exec (.arbPat b) s = .next (s.wrote { s.block with arb := { s.block.arb with pat := m, patLen := s.block.arb.patLen + 1 } }) ∧
      Memory.wf s.cfg.patCap m = true ∧ Memory.read m s.block.arb.patLen.toNat = b ∧
      ∀ k, k ≠ s.block.arb.patLen.toNat → Memory.read m k = Memory.read s.block.arb.pat k) ∧
    (s.block.arb.patLen.toNat = s.cfg.patCap →
      exec (.arbPat b) s = .next (s.raised { s.block.sticky with patovf := true } .overflowPat)))

/-- ARB.ABORT and ARB.IOERR end a waiting transaction at once, whatever the try counts, and send nothing; outside WAIT they
change nothing and raise nothing (R176, R177). -/
def Obligations.AbortAndIoerrEndOnlyAWaitingTransaction : Prop :=
  (decode (tword true 0x80 0x02) = .arbAbort ∧ decode (tword true 0x80 0x04) = .arbIoerr) ∧
  ∀ s : State,
    (s.block.arb.astate = .wait →
      exec .arbAbort s = .next (s.wrote { s.block with arb := { s.block.arb with astate := .aborted } }) ∧
      exec .arbIoerr s = .next (s.wrote { s.block with arb := { s.block.arb with astate := .ioerr } })) ∧
    (s.block.arb.astate ≠ .wait → exec .arbAbort s = .next (s.wrote s.block) ∧ exec .arbIoerr s = .next (s.wrote s.block))

/-- `match_next(k, b)` is the largest `j` up to `pat_len` such that the first `j` pattern bytes are a suffix of the first
`k` followed by `b` (R172). -/
def Obligations.MatchStepIsTheLargestPrefixSuffix : Prop :=
  ∀ (p : List Byte) (k : Nat) (b : Byte), k < p.length →
    matchNext p k b ≤ p.length ∧ p.take (matchNext p k b) <:+ p.take k ++ [b] ∧
    ∀ j, j ≤ p.length → p.take j <:+ p.take k ++ [b] → j ≤ matchNext p k b

/-- ARB.RX makes one match step in WAIT, and the whole pattern matched is SUCCESS; outside WAIT the byte is ignored; a
reserved bit raises IllegalAccess (R184, with the match step of R172 as its largest-prefix definition). -/
def Obligations.ReplyByteAdvancesTheMatch : Prop :=
  ByteOperation 0x98 .arbRx ∧
  ∀ (s : State) (b : Byte),
    (s.block.arb.astate = .wait → s.block.arb.patLen.toNat ≤ s.cfg.patCap →
      s.block.arb.matchLen.toNat < s.block.arb.patLen.toNat → ∃ j : Byte,
      (s.block.arb.pattern.take j.toNat <:+ s.block.arb.pattern.take s.block.arb.matchLen.toNat ++ [b]) ∧
      j.toNat ≤ s.block.arb.patLen.toNat ∧
      (∀ k, k ≤ s.block.arb.patLen.toNat →
        s.block.arb.pattern.take k <:+ s.block.arb.pattern.take s.block.arb.matchLen.toNat ++ [b] → k ≤ j.toNat) ∧
      exec (.arbRx b) s = .next (s.wrote { s.block with arb := { s.block.arb with
        matchLen := j, astate := if j = s.block.arb.patLen then .success else .wait } })) ∧
    (s.block.arb.astate ≠ .wait → exec (.arbRx b) s = .next (s.wrote s.block))

/-- ARB.TICK (R185): in WAIT the elapsed time grows, saturating; up to the limit nothing else changes; past it the command
is sent again with time and match restarted while tries remain, and the transaction ends in TIMEOUT when none remain;
outside WAIT nothing changes. -/
def Obligations.TickAdvancesTimeRetriesOrTimesOut : Prop :=
  WordWriteAt 0x9C .arbTick ∧
  ∀ (s : State) (d : Word) (e : BitVec 64), e.toNat = min (s.block.arb.elapsed.toNat + d.toNat) (2 ^ 64 - 1) →
    (s.block.arb.astate ≠ .wait → exec (.arbTick d) s = .next (s.wrote s.block)) ∧
    (s.block.arb.astate = .wait → e.toNat ≤ s.block.arb.budget.toNat * s.cfg.timeoutMult →
      exec (.arbTick d) s = .next (s.wrote { s.block with arb := { s.block.arb with elapsed := e } })) ∧
    (s.block.arb.astate = .wait → s.block.arb.budget.toNat * s.cfg.timeoutMult < e.toNat →
      s.block.arb.attempts.toNat < s.block.arb.maxTries.toNat → s.block.arb.cmdLen.toNat ≤ s.cfg.cmdCap →
      exec (.arbTick d) s = .next { s.wrote { s.block with arb := { s.block.arb with
        attempts := s.block.arb.attempts + 1, elapsed := 0, matchLen := 0 } } with tx := s.tx ++ s.block.arb.command }) ∧
    (s.block.arb.astate = .wait → s.block.arb.budget.toNat * s.cfg.timeoutMult < e.toNat →
      s.block.arb.maxTries.toNat ≤ s.block.arb.attempts.toNat →
      exec (.arbTick d) s = .next (s.wrote { s.block with arb := { s.block.arb with astate := .timeout, elapsed := e } }))

/-- The time limit is the exact product of budget and multiplier: at every legal configuration the 64-bit product never
wraps, and for the chosen multiplier it is below `2^42` (the bounds that R171 gives). -/
def Obligations.TimeLimitNeverWraps : Prop :=
  (∀ (c : Config) (v : Word), c.Legal →
    timeLimit c v = (v.zeroExtend 64 * (BitVec.ofNat 32 c.timeoutMult).zeroExtend 64 : BitVec 64).toNat ∧
    timeLimit c v ≤ (2 ^ 32 - 1) ^ 2) ∧
  (∀ v : Word, timeLimit config v < 2 ^ 42)

/-- The arbiter's read registers report their elements and change nothing (R186, R187, R188, R189, R190, R191). -/
def Obligations.ArbiterReadsReportTheirElements : Prop :=
  (ReadAt 0x84 .rdArbStatus ∧ ReadAt 0x88 .rdArbBudget ∧ ReadAt 0x8C .rdArbTries ∧ ReadAt 0xA0 .rdArbLen ∧
    ReadAt 0xA4 .rdArbElapsedLo ∧ ReadAt 0xA8 .rdArbElapsedHi) ∧
  ∀ s : State,
    (∃ v : Word, exec .rdArbStatus s = .next (s.readBack v) ∧ v.extractLsb' 0 3 = s.block.arb.astate.code ∧
      v.extractLsb' 3 5 = 0 ∧ v.extractLsb' 8 8 = s.block.arb.attempts ∧ v.extractLsb' 16 8 = s.block.arb.matchLen ∧
      v.extractLsb' 24 8 = 0) ∧
    exec .rdArbBudget s = .next (s.readBack s.block.arb.budget) ∧
    (∃ v : Word, exec .rdArbTries s = .next (s.readBack v) ∧ v.toNat = s.block.arb.maxTries.toNat) ∧
    (∃ v : Word, exec .rdArbLen s = .next (s.readBack v) ∧ v.extractLsb' 0 8 = s.block.arb.cmdLen ∧
      v.extractLsb' 8 8 = s.block.arb.patLen ∧ v.extractLsb' 16 16 = 0) ∧
    (∃ lo hi : Word, exec .rdArbElapsedLo s = .next (s.readBack lo) ∧ exec .rdArbElapsedHi s = .next (s.readBack hi) ∧
      hi ++ lo = s.block.arb.elapsed)

/-! ## Command arbiter: whole transactions -/

/-- The reply search (the spec's own inference R173): after any reply bytes `r` fed in WAIT since the send, the arbiter is in SUCCESS exactly when
the pattern occurs in `r` as a contiguous subsequence; otherwise it waits, and `match_len` is the largest `j` such that
the first `j` pattern bytes are a suffix of `r`. -/
def Obligations.StreamingMatchIsSubstringSearch : Prop :=
  ∀ (s : State) (r : List Byte), s.block.arb.astate = .wait → s.block.arb.patLen.toNat ≤ s.cfg.patCap →
    s.block.arb.matchLen = 0 → s.block.arb.patLen ≠ 0 →
    ∃ t, receive r s = .next t ∧
      (s.block.arb.pattern <:+: r → t.block.arb.astate = .success ∧ t.block.arb.matchLen = s.block.arb.patLen) ∧
      (¬ s.block.arb.pattern <:+: r → t.block.arb.astate = .wait ∧
        t.block.arb.matchLen.toNat ≤ s.block.arb.patLen.toNat ∧
        s.block.arb.pattern.take t.block.arb.matchLen.toNat <:+ r ∧
        ∀ j, j ≤ s.block.arb.patLen.toNat → s.block.arb.pattern.take j <:+ r → j ≤ t.block.arb.matchLen.toNat)

/-- The timeout property (the spec's own inference R193): with one try, after ARB.START and any ticks and reply bytes that do not yet complete the
pattern, the byte that completes it ends in SUCCESS if the ticks add up to at most budget times multiplier, and finds the
transaction in TIMEOUT if they add up to more. -/
def Obligations.ReplyInTimeSucceedsAndLateReplyFails : Prop :=
  ∀ (s : State) (ops : List Instr) (b : Byte), s.Inv → s.block.arb.astate ≠ .wait → s.block.arb.maxTries = 1 →
    s.block.arb.patLen ≠ 0 → (∀ i ∈ ops, (∃ d, i = .arbTick d) ∨ (∃ x, i = .arbRx x)) →
    ¬ s.block.arb.pattern <:+: ops.filterMap rxOperand → s.block.arb.pattern <:+: ops.filterMap rxOperand ++ [b] →
    ∃ u t, runOps (.arbStart :: ops) s = .next u ∧ exec (.arbRx b) u = .next t ∧
      (totalTicks ops ≤ s.block.arb.budget.toNat * s.cfg.timeoutMult → u.block.arb.astate = .wait ∧ t.block.arb.astate = .success) ∧
      (s.block.arb.budget.toNat * s.cfg.timeoutMult < totalTicks ops → u.block.arb.astate = .timeout ∧ t.block.arb.astate = .timeout)

/-- One transaction sends the command at most `max_tries` times (the spec's own inference R194): from an accepted ARB.START, whatever operations
follow without another ARB.START, `tx` grows by the command bytes repeated at least once and at most `max_tries` times. -/
def Obligations.OneTransactionSendsAtMostMaxTriesCommands : Prop :=
  ∀ (s t : State) (ops : List Instr), s.Inv → s.block.arb.astate ≠ .wait → Instr.arbStart ∉ ops →
    runOps (.arbStart :: ops) s = .next t →
    ∃ n, 1 ≤ n ∧ n ≤ s.block.arb.maxTries.toNat ∧ t.tx = s.tx ++ (List.replicate n s.block.arb.command).flatten

/-- If the host keeps delivering ticks every transaction ends (the spec's own inference R194): from WAIT, enough non-zero ticks, at most one more
than the limit for each attempt left, end in TIMEOUT. -/
def Obligations.EnoughTicksEndEveryTransaction : Prop :=
  ∀ (s : State) (ds : List Word), s.Inv → s.block.arb.astate = .wait → (∀ d ∈ ds, d ≠ 0) →
    (s.block.arb.maxTries.toNat - s.block.arb.attempts.toNat + 1) * (s.block.arb.budget.toNat * s.cfg.timeoutMult + 1) ≤ ds.length →
    ∃ t, runOps (ds.map Instr.arbTick) s = .next t ∧ t.block.arb.astate = .timeout

/-- The configuration of a transaction is fixed while it waits (what R76 and R242 say of every attempt): every operation after which the arbiter still
waits leaves the command, the pattern, the budget and the try count, and emits nothing or exactly the command bytes. -/
def Obligations.WaitingTransactionKeepsItsConfiguration : Prop :=
  ∀ (i : Instr) (s t : State), s.block.arb.astate = .wait → exec i s = .next t → t.block.arb.astate = .wait →
    t.block.arb.cmd = s.block.arb.cmd ∧ t.block.arb.cmdLen = s.block.arb.cmdLen ∧ t.block.arb.pat = s.block.arb.pat ∧
    t.block.arb.patLen = s.block.arb.patLen ∧ t.block.arb.budget = s.block.arb.budget ∧
    t.block.arb.maxTries = s.block.arb.maxTries ∧ (t.tx = s.tx ∨ t.tx = s.tx ++ s.block.arb.command)

/-! ## The whole machine -/

/-- Independence (R195), within one build: an arbiter operation, with the bytes it emits, neither changes nor depends on the CRC register or the decoder; a decoder
operation neither changes nor depends on the CRC register or the arbiter; a CRC operation neither changes nor depends on
the decoder or the arbiter; a DEC.BYTE answers in every arbiter state as it does outside WAIT, and sets no sticky bit. -/
def Obligations.UnitsAreIndependent : Prop :=
  (∀ (i : Instr) (s s' t t' : State), s.cfg = s'.cfg → exec i s = .next t → exec i s' = .next t' →
    (unitOf i = .arbiter → t.block.crc = s.block.crc ∧ t.block.dec = s.block.dec ∧
      (s.block.arb = s'.block.arb → t.block.arb = t'.block.arb ∧ t.out = t'.out ∧
        (s.tx = s'.tx → t.tx = t'.tx) ∧ ∃ bs, t.tx = s.tx ++ bs ∧ t'.tx = s'.tx ++ bs)) ∧
    (unitOf i = .decoder → t.block.crc = s.block.crc ∧ t.block.arb = s.block.arb ∧ t.tx = s.tx ∧
      (s.block.dec = s'.block.dec → t.block.dec = t'.block.dec ∧ t.out = t'.out)) ∧
    (unitOf i = .crc → t.block.dec = s.block.dec ∧ t.block.arb = s.block.arb ∧ t.tx = s.tx ∧
      (s.block.crc = s'.block.crc → t.block.crc = t'.block.crc ∧ t.out = t'.out))) ∧
  (∀ (b : Byte) (s t : State) (a : Arbiter), exec (.decByte b) s = .next t →
    t.block.sticky = s.block.sticky ∧
    exec (.decByte b) { s with block := { s.block with arb := a } } = .next { t with block := { t.block with arb := a } })

/-- Reads have no side effects (R66): every word with `W = 0`, whatever its address and data, returns a value and changes
nothing else, and a second read of the same address with no write between returns the same value. -/
def Obligations.ReadsHaveNoSideEffects : Prop :=
  ∀ (t : TWord) (s : State), TWord.w t = false → ∃ v : Word,
    exec (decode t) s = .next (s.readBack v) ∧
    ∀ (w : Word) (t' : TWord), TWord.w t' = false → TWord.a t' = TWord.a t →
      exec (decode t') (s.readBack w) = .next (s.readBack v)

/-- Errors are precise (R249): an operation that raises changes no state but its one sticky bit, emits nothing and pulses
nothing; and an operation that sets a sticky bit raised that bit's error. -/
def Obligations.ErrorsArePrecise : Prop :=
  ∀ (i : Instr) (s t : State), exec i s = .next t →
    (t.out.event = some .illegalAccess → t = s.raised { s.block.sticky with illop := true } .illegalAccess) ∧
    (t.out.event = some .busyReject → t = s.raised { s.block.sticky with busy := true } .busyReject) ∧
    (t.out.event = some .overflowCmd → t = s.raised { s.block.sticky with cmdovf := true } .overflowCmd) ∧
    (t.out.event = some .overflowPat → t = s.raised { s.block.sticky with patovf := true } .overflowPat) ∧
    (s.block.sticky.illop = false → t.block.sticky.illop = true → t.out.event = some .illegalAccess) ∧
    (s.block.sticky.busy = false → t.block.sticky.busy = true → t.out.event = some .busyReject) ∧
    (s.block.sticky.cmdovf = false → t.block.sticky.cmdovf = true → t.out.event = some .overflowCmd) ∧
    (s.block.sticky.patovf = false → t.block.sticky.patovf = true → t.out.event = some .overflowPat)

/-- Priority (R248): a write with a reserved bit set raises IllegalAccess only, even in WAIT with a full buffer; a legal
ARB.CMD or ARB.PAT in WAIT raises BusyReject only, even with a full buffer; Overflow is raised only outside WAIT; a legal
DEC.BYTE records at most one of BadChecksum and FrameDrop and raises nothing else; no operation both pulses `frame_done`
and changes `arb_done`. -/
def Obligations.ErrorPriorityWithinOneOperation : Prop :=
  (∀ (s : State) (a : Byte) (d : Word), a ∈ ([0x24, 0x40, 0x8C, 0x90, 0x94, 0x98] : List Byte) → d.extractLsb' 8 24 ≠ 0 →
    exec (decode (tword true a d)) s = .next (s.raised { s.block.sticky with illop := true } .illegalAccess)) ∧
  (∀ (s : State) (b : Byte), s.block.arb.astate = .wait →
    exec (.arbCmd b) s = .next (s.raised { s.block.sticky with busy := true } .busyReject) ∧
    exec (.arbPat b) s = .next (s.raised { s.block.sticky with busy := true } .busyReject)) ∧
  (∀ (i : Instr) (s t : State), exec i s = .next t → t.out.event = some .overflowCmd ∨ t.out.event = some .overflowPat →
    s.block.arb.astate ≠ .wait) ∧
  (∀ (b : Byte) (s t : State), exec (.decByte b) s = .next t →
    (t.out.event = none ∧ t.block.dec.badcrcCnt = s.block.dec.badcrcCnt ∧ t.block.dec.dropCnt = s.block.dec.dropCnt) ∨
    (t.out.event = some .badChecksum ∧ t.block.dec.badcrcCnt = s.block.dec.badcrcCnt + 1 ∧
      t.block.dec.dropCnt = s.block.dec.dropCnt) ∨
    (t.out.event = some .frameDrop ∧ t.block.dec.badcrcCnt = s.block.dec.badcrcCnt ∧
      t.block.dec.dropCnt = s.block.dec.dropCnt + 1)) ∧
  (∀ (i : Instr) (s t : State), exec i s = .next t → t.out.frameDone = true → t.arbDone = s.arbDone)

/-- The sticky bits (R35): each is set by exactly the operations its rule names, in the states it names; only CTL.CLRERR
and CTL.RESET clear them. -/
def Obligations.StickyBitsAreSetAndClearedAsNamed : Prop :=
  ∀ (i : Instr) (s t : State), exec i s = .next t →
    ((i = .ctlClrerr ∨ i = .ctlReset) →
      t.block.sticky = { illop := false, cmdovf := false, patovf := false, busy := false }) ∧
    (i ≠ .ctlClrerr → i ≠ .ctlReset →
      (t.block.sticky.illop = true ↔ s.block.sticky.illop = true ∨ ∃ a d, i = .wrIllegal a d) ∧
      (t.block.sticky.cmdovf = true ↔ s.block.sticky.cmdovf = true ∨
        (s.block.arb.astate ≠ .wait ∧ s.block.arb.cmdLen.toNat = s.cfg.cmdCap ∧ ∃ b, i = .arbCmd b)) ∧
      (t.block.sticky.patovf = true ↔ s.block.sticky.patovf = true ∨
        (s.block.arb.astate ≠ .wait ∧ s.block.arb.patLen.toNat = s.cfg.patCap ∧ ∃ b, i = .arbPat b)) ∧
      (t.block.sticky.busy = true ↔ s.block.sticky.busy = true ∨
        (s.block.arb.astate = .wait ∧
          (i = .arbStart ∨ i = .arbClrcmd ∨ i = .arbClrpat ∨ (∃ v, i = .arbBudget v) ∨ (∃ n, i = .arbTries n) ∨
            (∃ b, i = .arbCmd b) ∨ ∃ b, i = .arbPat b))))

/-- The outputs (R36): every operation appends to `tx`, and only ARB.START and a retrying ARB.TICK append anything; `frame_done` is 1
for exactly a DEC.BYTE in CK4 whose CRC matches; `arb_done` is 1 exactly in the four terminal states; `err` is 1 exactly
while a sticky bit is 1. -/
def Obligations.OutputsAreDrivenAsTheSpecSays : Prop :=
  (∀ (i : Instr) (s t : State), exec i s = .next t →
    (∃ bs, t.tx = s.tx ++ bs ∧
      (bs ≠ [] → i = .arbStart ∨ ∃ d, i = .arbTick d ∧ t.block.arb.attempts = s.block.arb.attempts + 1)) ∧
    (t.out.frameDone = true ↔ ∃ b, i = .decByte b ∧ s.block.dec.dstate = .ck4 ∧
      crc32Frame s.block.dec.header s.block.dec.payload = s.block.dec.rxCrc ||| (b.zeroExtend 32 <<< 24))) ∧
  (∀ s : State,
    (s.arbDone = true ↔ s.block.arb.astate = .success ∨ s.block.arb.astate = .timeout ∨ s.block.arb.astate = .ioerr ∨
      s.block.arb.astate = .aborted) ∧
    (s.err = true ↔ s.block.sticky.illop = true ∨ s.block.sticky.cmdovf = true ∨ s.block.sticky.patovf = true ∨
      s.block.sticky.busy = true))

/-- Who writes what: over every operation but CTL.RESET that answers a next state, every element of the state tuple of R20
changes only by the operations whose rules write it, and the parameters of the build (R8) change by none. The counters only
count up by one, modulo `2^32`, from the decoder states their rules name, or are cleared; `frame_valid` falls only at the
header-length byte or CTL.DECRST and rises only at CK4; the arbiter leaves IDLE and a terminal state only by ARB.START, and
WAIT only to the four terminal states by the operation of each (read from the rules of the operations and from 10_state.md
sections 2 to 5). -/
def Obligations.EachElementIsWrittenOnlyByItsOperations : Prop :=
  (∀ (i : Instr) (s t : State), exec i s = .next t → t.cfg = s.cfg) ∧
  ∀ (i : Instr) (s t : State), exec i s = .next t → i ≠ .ctlReset →
    (t.block.crc ≠ s.block.crc → (∃ v, i = .crcSeed v) ∨ ∃ b, i = .crcByte b) ∧
    (t.block.dec.dstate ≠ s.block.dec.dstate ∨ t.block.dec.read ≠ s.block.dec.read ∨
      t.block.dec.decResult ≠ s.block.dec.decResult → i = .ctlDecrst ∨ ∃ b, i = .decByte b) ∧
    (t.block.dec.frameValid ≠ s.block.dec.frameValid →
      (t.block.dec.frameValid = false ∧ (i = .ctlDecrst ∨ (s.block.dec.dstate = .hdrlen ∧ ∃ b, i = .decByte b))) ∨
      (t.block.dec.frameValid = true ∧ s.block.dec.dstate = .ck4 ∧ ∃ b, i = .decByte b)) ∧
    (t.block.dec.hdr ≠ s.block.dec.hdr ∨ t.block.dec.pay ≠ s.block.dec.pay ∨ t.block.dec.hdrLen ≠ s.block.dec.hdrLen ∨
      t.block.dec.msgLen ≠ s.block.dec.msgLen ∨ t.block.dec.rxCrc ≠ s.block.dec.rxCrc → ∃ b, i = .decByte b) ∧
    (t.block.dec.calcCrc ≠ s.block.dec.calcCrc → s.block.dec.dstate = .ck4 ∧ ∃ b, i = .decByte b) ∧
    (t.block.dec.fsel ≠ s.block.dec.fsel → ∃ buf idx, i = .fbufSel buf idx) ∧
    (i ≠ .ctlClrcnt → t.block.dec.badcrcCnt = s.block.dec.badcrcCnt ∨
      (t.block.dec.badcrcCnt = s.block.dec.badcrcCnt + 1 ∧ s.block.dec.dstate = .ck4 ∧ ∃ b, i = .decByte b)) ∧
    (i ≠ .ctlClrcnt → t.block.dec.dropCnt = s.block.dec.dropCnt ∨
      (t.block.dec.dropCnt = s.block.dec.dropCnt + 1 ∧ t.block.dec.dstate = .sync1 ∧
        (s.block.dec.dstate = .hdrlen ∨ s.block.dec.dstate = .hdr ∨ s.block.dec.dstate = .pay) ∧ ∃ b, i = .decByte b)) ∧
    (t.block.arb.budget ≠ s.block.arb.budget → ∃ v, i = .arbBudget v) ∧
    (t.block.arb.maxTries ≠ s.block.arb.maxTries → ∃ n, i = .arbTries n) ∧
    (t.block.arb.cmd ≠ s.block.arb.cmd → ∃ b, i = .arbCmd b) ∧
    (t.block.arb.cmdLen ≠ s.block.arb.cmdLen → i = .arbClrcmd ∨ ∃ b, i = .arbCmd b) ∧
    (t.block.arb.pat ≠ s.block.arb.pat → ∃ b, i = .arbPat b) ∧
    (t.block.arb.patLen ≠ s.block.arb.patLen → i = .arbClrpat ∨ ∃ b, i = .arbPat b) ∧
    (t.block.arb.attempts ≠ s.block.arb.attempts ∨ t.block.arb.elapsed ≠ s.block.arb.elapsed →
      i = .arbStart ∨ ∃ d, i = .arbTick d) ∧
    (t.block.arb.matchLen ≠ s.block.arb.matchLen →
      i = .arbStart ∨ i = .arbClrpat ∨ (∃ b, i = .arbRx b) ∨ ∃ d, i = .arbTick d) ∧
    (s.block.arb.astate ≠ .wait → t.block.arb.astate ≠ s.block.arb.astate →
      i = .arbStart ∧ (t.block.arb.astate = .wait ∨ t.block.arb.astate = .success)) ∧
    (s.block.arb.astate = .wait → t.block.arb.astate = .wait ∨
      (t.block.arb.astate = .success ∧ ∃ b, i = .arbRx b) ∨ (t.block.arb.astate = .timeout ∧ ∃ d, i = .arbTick d) ∨
      (t.block.arb.astate = .ioerr ∧ i = .arbIoerr) ∨ (t.block.arb.astate = .aborted ∧ i = .arbAbort)) ∧
    (t.block.sticky.illop ≠ s.block.sticky.illop → i = .ctlClrerr ∨ ∃ a d, i = .wrIllegal a d) ∧
    (t.block.sticky.cmdovf ≠ s.block.sticky.cmdovf → i = .ctlClrerr ∨ ∃ b, i = .arbCmd b) ∧
    (t.block.sticky.patovf ≠ s.block.sticky.patovf → i = .ctlClrerr ∨ ∃ b, i = .arbPat b) ∧
    (t.block.sticky.busy ≠ s.block.sticky.busy → i = .ctlClrerr ∨
      (s.block.arb.astate = .wait ∧ (i = .arbStart ∨ i = .arbClrcmd ∨ i = .arbClrpat ∨ (∃ v, i = .arbBudget v) ∨
        (∃ n, i = .arbTries n) ∨ (∃ b, i = .arbCmd b) ∨ ∃ b, i = .arbPat b)))

/-! ## Invariants -/

/-- At every legal configuration of R8 the state after power-on reset meets the invariant of R37 (the spec's own inference)
and the invariant of the retained frame, with every buffer in canonical form; the chosen configuration is legal. -/
def Obligations.ResetMeetsTheInvariants : Prop :=
  (State.reset.Inv ∧ State.reset.FrameInv) ∧ ∀ c : Config, c.Legal → (State.resetOf c).Inv ∧ (State.resetOf c).FrameInv

/-- Every step keeps the invariant, at every legal configuration: the ranges of the counters, lengths and tries of R37 (the
spec's own inference), and the canonical form of the four buffers (the model's own, log entry 6). -/
def Obligations.EveryStepKeepsTheInvariant : Prop := ∀ s t : State, s.Inv → step s = .next t → t.Inv

/-- From every state that meets the invariant every operation answers a next state: the model's two faults (its own, log
entries 7 and 8) are out of reach, and nothing refuses. -/
def Obligations.InvariantStatesNeverStop : Prop :=
  ∀ s : State, s.Inv → (∀ i : Instr, ∃ t, exec i s = .next t) ∧ ∃ t, step s = .next t

/-- At every legal configuration of R8, not only the chosen one: a run of the build from power-on reset over any queued
words (log entry 1), of any length, never stops, keeps the parameters and ends in a state that meets both invariants; and
the operations that depend on a parameter answer a state and keep the block's invariant. -/
def Obligations.EveryLegalConfigurationKeepsTheInvariant : Prop :=
  (∀ (c : Config) (words : List TWord) (n : Nat), c.Legal →
    ∃ t : State, Host.Core.run core n { State.resetOf c with bus := words } = .next t ∧ t.cfg = c ∧ t.Inv ∧ t.FrameInv) ∧
  (∀ (c : Config) (s : State), c.Legal → s.block.Inv c →
    (∀ b, ∃ t, consumeByte c b s = .ok t ∧ t.block.Inv c) ∧ (∃ t, startTransaction c s = .ok t ∧ t.block.Inv c) ∧
    (∀ b, ∃ t, appendCommand c b s = .ok t ∧ t.block.Inv c) ∧ (∀ b, ∃ t, appendPattern c b s = .ok t ∧ t.block.Inv c) ∧
    (∀ b, ∃ t, receiveReply c b s = .ok t ∧ t.block.Inv c) ∧ (∀ d, ∃ t, tick c d s = .ok t ∧ t.block.Inv c))
end

