-- ==== Sys2Proof/Laws/Decode.lean ====
section
/-! SUPPORT. Small lemmas about transaction words: the fields of a word built from its fields, the operand fields of an encoded operand. -/

namespace Sys2Proof

@[simp] theorem TWord.w_tword (w : Bool) (a : Byte) (d : Word) : TWord.w (tword w a d) = w := by
  simp only [TWord.w, tword, BitVec.getLsbD_append]
  cases w <;> simp

@[simp] theorem TWord.a_tword (w : Bool) (a : Byte) (d : Word) : TWord.a (tword w a d) = a := by
  apply BitVec.eq_of_getLsbD_eq
  intro i hi
  simp only [TWord.a, tword, BitVec.getLsbD_extractLsb', BitVec.getLsbD_append]
  simp [hi]

@[simp] theorem TWord.d_tword (w : Bool) (a : Byte) (d : Word) : TWord.d (tword w a d) = d := by
  apply BitVec.eq_of_getLsbD_eq
  intro i hi
  simp only [TWord.d, tword, BitVec.getLsbD_extractLsb', BitVec.getLsbD_append]
  simp [hi]

/-- A transaction word is its three fields. -/
theorem tword_eta (t : TWord) : tword (TWord.w t) (TWord.a t) (TWord.d t) = t := by
  apply BitVec.eq_of_getLsbD_eq
  intro i hi
  simp only [TWord.a, TWord.d, TWord.w, tword, BitVec.getLsbD_extractLsb', BitVec.getLsbD_append]
  by_cases h1 : i < 32
  · simp [h1]
  · by_cases h2 : i - 32 < 8
    · have : 32 + (i - 32) = i := by omega
      simp [h1, h2, this]
    · have : i = 40 := by omega
      subst this
      simp

/-- Equal words have equal fields. -/
theorem tword_inj {w w' : Bool} {a a' : Byte} {d d' : Word} (h : tword w a d = tword w' a' d') : w = w' ∧ a = a' ∧ d = d' :=
  ⟨by simpa using congrArg TWord.w h, by simpa using congrArg TWord.a h, by simpa using congrArg TWord.d h⟩

@[simp] theorem reservedHigh24_byteData (b : Byte) : reservedHigh24 (byteData b) = 0 := by
  apply BitVec.eq_of_getLsbD_eq
  intro i hi
  simp [reservedHigh24, byteData]

@[simp] theorem operandByte_byteData (b : Byte) : operandByte (byteData b) = b := by
  apply BitVec.eq_of_getLsbD_eq
  intro i hi
  simp [operandByte, byteData, hi]
  omega

/-- Data with a zero reserved field is its operand byte. -/
theorem byteData_operandByte {d : Word} (h : reservedHigh24 d = 0) : byteData (operandByte d) = d := by
  apply BitVec.eq_of_getLsbD_eq
  intro i hi
  by_cases h8 : i < 8
  · simp [byteData, operandByte, h8, hi]
  · have hb := congrArg (fun x => x.getLsbD (i - 8)) h
    simp only [reservedHigh24, BitVec.getLsbD_extractLsb'] at hb
    have e : 8 + (i - 8) = i := by omega
    rw [e] at hb
    have : i - 8 < 24 := by omega
    simp [this] at hb
    simp [byteData, operandByte, h8, hb]

end Sys2Proof
end

