-- ==== Sys2Proof/Laws/Memory.lean ====
section
/-! SUPPORT. The laws of the internal byte buffers: what a write changes and leaves, and that every memory operation keeps the canonical form. -/

namespace Sys2Proof.Machine

open Sys2Proof

@[simp] theorem Memory.read_nil (i : Nat) : Memory.read [] i = 0 := rfl

@[simp] theorem Memory.read_cons (j : Nat) (v : Byte) (m : Memory) (i : Nat) :
    Memory.read ((j, v) :: m) i = if i = j then v else Memory.read m i := rfl

/-- Below every listed index a buffer reads as the reset contents. -/
theorem Memory.read_below : ∀ (m : Memory) (lo i : Nat), Memory.wfFrom lo m = true → i < lo → Memory.read m i = 0
  | [], _, _, _, _ => rfl
  | (j, v) :: m, lo, i, h, hi => by
    simp only [Memory.wfFrom, Bool.and_eq_true, decide_eq_true_eq] at h
    rw [Memory.read_cons, if_neg (by omega)]
    exact Memory.read_below m (j + 1) i h.2 (by omega)

/-- A lower bound on the listed indices may be lowered. -/
theorem Memory.wfFrom_mono {lo lo' : Nat} (h : lo' ≤ lo) : ∀ {m : Memory}, Memory.wfFrom lo m = true → Memory.wfFrom lo' m = true
  | [], _ => rfl
  | (j, v) :: m, hm => by
    simp only [Memory.wfFrom, Bool.and_eq_true, decide_eq_true_eq] at hm ⊢
    exact ⟨⟨by omega, hm.1.2⟩, hm.2⟩

/-- A write keeps the canonical form from `lo` on. -/
theorem Memory.write_wfFrom : ∀ (m : Memory) (lo i : Nat) (b : Byte), Memory.wfFrom lo m = true → lo ≤ i →
    Memory.wfFrom lo (Memory.write m i b) = true
  | [], lo, i, b, _, hi => by
    unfold Memory.write
    split <;> simp_all [Memory.wfFrom]
  | (j, v) :: m, lo, i, b, h, hi => by
    have h' := h
    simp only [Memory.wfFrom, Bool.and_eq_true, decide_eq_true_eq] at h
    have hv := h.1.2
    unfold Memory.write
    split
    · split
      · exact h'
      · simp_all [Memory.wfFrom]
    · split
      · split
        · exact Memory.wfFrom_mono (by omega) h.2
        · simp_all [Memory.wfFrom]
      · have := Memory.write_wfFrom m (j + 1) i b h.2 (by omega)
        simp_all [Memory.wfFrom]

/-- Reading an index after a write to it gives the byte written. -/
theorem Memory.read_write_same : ∀ (m : Memory) (lo i : Nat) (b : Byte), Memory.wfFrom lo m = true →
    Memory.read (Memory.write m i b) i = b
  | [], lo, i, b, _ => by
    unfold Memory.write
    split <;> simp_all
  | (j, v) :: m, lo, i, b, h => by
    simp only [Memory.wfFrom, Bool.and_eq_true, decide_eq_true_eq] at h
    unfold Memory.write
    split
    · split
      · rw [Memory.read_cons, if_neg (by omega), Memory.read_below m (j + 1) i h.2 (by omega)]
        simp_all
      · simp
    · split
      · split
        · rw [Memory.read_below m (j + 1) i h.2 (by omega)]
          simp_all
        · simp
      · rw [Memory.read_cons, if_neg (by omega)]
        exact Memory.read_write_same m (j + 1) i b h.2

/-- Reading any other index after a write gives what it gave before. -/
theorem Memory.read_write_other : ∀ (m : Memory) (i k : Nat) (b : Byte), k ≠ i →
    Memory.read (Memory.write m i b) k = Memory.read m k
  | [], i, k, b, hk => by
    unfold Memory.write
    split <;> simp [hk]
  | (j, v) :: m, i, k, b, hk => by
    unfold Memory.write
    split
    · split <;> simp [hk]
    · split
      · next h =>
        subst h
        split <;> simp [hk]
      · rw [Memory.read_cons, Memory.read_cons, Memory.read_write_other m i k b hk]

/-- One law for both cases of a read after a write. -/
theorem Memory.read_write (m : Memory) (lo i k : Nat) (b : Byte) (h : Memory.wfFrom lo m = true) :
    Memory.read (Memory.write m i b) k = if k = i then b else Memory.read m k := by
  split
  · next hk => subst hk; exact Memory.read_write_same m lo k b h
  · next hk => exact Memory.read_write_other m i k b hk

theorem Memory.mem_write : ∀ (m : Memory) (i : Nat) (b : Byte) (x : Host.Cell), x ∈ Memory.write m i b → x ∈ m ∨ x.1 = i
  | [], i, b, x, hx => by
    unfold Memory.write at hx
    split at hx <;> simp_all
  | (j, v) :: m, i, b, x, hx => by
    unfold Memory.write at hx
    split at hx
    · split at hx
      · exact .inl hx
      · rcases List.mem_cons.1 hx with rfl | h
        · exact .inr rfl
        · exact .inl h
    · split at hx
      · split at hx
        · exact .inl (List.mem_cons_of_mem _ hx)
        · rcases List.mem_cons.1 hx with rfl | h
          · exact .inr rfl
          · exact .inl (List.mem_cons_of_mem _ h)
      · rcases List.mem_cons.1 hx with rfl | h
        · exact .inl List.mem_cons_self
        · rcases Memory.mem_write m i b x h with h | h
          · exact .inl (List.mem_cons_of_mem _ h)
          · exact .inr h

/-- The empty buffer is in canonical form. -/
@[simp] theorem Memory.wf_nil (cap : Nat) : Memory.wf cap [] = true := rfl

theorem Memory.wf_from {cap : Nat} {m : Memory} (h : Memory.wf cap m = true) : Memory.wfFrom 0 m = true := by
  simp only [Memory.wf, Bool.and_eq_true] at h
  exact h.1

/-- A write inside the capacity keeps the canonical form. -/
theorem Memory.write_wf {cap : Nat} {m : Memory} {i : Nat} (b : Byte) (h : Memory.wf cap m = true) (hi : i < cap) :
    Memory.wf cap (Memory.write m i b) = true := by
  simp only [Memory.wf, Bool.and_eq_true, List.all_eq_true, decide_eq_true_eq] at h ⊢
  refine ⟨Memory.write_wfFrom m 0 i b h.1 (by omega), fun x hx => ?_⟩
  rcases Memory.mem_write m i b x hx with hx | hx
  · exact h.2 x hx
  · omega

/-- At or beyond the capacity a buffer in canonical form reads as the reset contents. -/
theorem Memory.read_beyond {cap : Nat} {m : Memory} {i : Nat} (h : Memory.wf cap m = true) (hi : cap ≤ i) :
    Memory.read m i = 0 := by
  simp only [Memory.wf, Bool.and_eq_true, List.all_eq_true, decide_eq_true_eq] at h
  have : ∀ m' : Memory, (∀ x ∈ m', x.1 < cap) → Memory.read m' i = 0 := by
    intro m' hm'
    induction m' with
    | nil => rfl
    | cons x m' ih =>
      obtain ⟨j, v⟩ := x
      have hj := hm' (j, v) List.mem_cons_self
      rw [Memory.read_cons, if_neg (by simp only at hj; omega)]
      exact ih fun y hy => hm' y (List.mem_cons_of_mem _ hy)
  exact this m h.2

/-- Two buffers in canonical form that read the same everywhere are equal. -/
theorem Memory.ext_of_read : ∀ {m m' : Memory} {lo : Nat}, Memory.wfFrom lo m = true → Memory.wfFrom lo m' = true →
    (∀ i, Memory.read m i = Memory.read m' i) → m = m'
  | [], [], _, _, _, _ => rfl
  | [], (j, v) :: m', lo, _, h', hr => by
    simp only [Memory.wfFrom, Bool.and_eq_true] at h'
    have := hr j
    simp_all
  | (j, v) :: m, [], lo, h, _, hr => by
    simp only [Memory.wfFrom, Bool.and_eq_true] at h
    have := hr j
    simp_all
  | (j, v) :: m, (j', v') :: m', lo, h, h', hr => by
    simp only [Memory.wfFrom, Bool.and_eq_true, decide_eq_true_eq, bne_iff_ne, ne_eq] at h h'
    have hjj : j = j' := by
      rcases Nat.lt_trichotomy j j' with hlt | heq | hlt
      · have := hr j
        rw [Memory.read_cons, Memory.read_cons, if_pos rfl, if_neg (by omega),
          Memory.read_below m' (j' + 1) j h'.2 (by omega)] at this
        exact absurd this h.1.2
      · exact heq
      · have := hr j'
        rw [Memory.read_cons, Memory.read_cons, if_pos rfl, if_neg (by omega),
          Memory.read_below m (j + 1) j' h.2 (by omega)] at this
        exact absurd this.symm h'.1.2
    subst hjj
    have hvv : v = v' := by have := hr j; simpa using this
    subst hvv
    have hm : m = m' := Memory.ext_of_read h.2 h'.2 fun i => by
      by_cases hi : i = j
      · subst hi
        rw [Memory.read_below m (i + 1) i h.2 (by omega), Memory.read_below m' (i + 1) i h'.2 (by omega)]
      · have := hr i
        rwa [Memory.read_cons, Memory.read_cons, if_neg hi, if_neg hi] at this
    rw [hm]

/-! ## Spans -/

@[simp] theorem Memory.bytes_length (m : Memory) (n : Nat) : (Memory.bytes m n).length = n := by simp [Memory.bytes]

theorem Memory.bytes_getElem (m : Memory) (n i : Nat) (h : i < (Memory.bytes m n).length) :
    (Memory.bytes m n)[i] = Memory.read m i := by simp [Memory.bytes]

@[simp] theorem Memory.bytes_zero (m : Memory) : Memory.bytes m 0 = [] := rfl

/-- A span grows by the byte at its end. -/
theorem Memory.bytes_succ (m : Memory) (n : Nat) : Memory.bytes m (n + 1) = Memory.bytes m n ++ [Memory.read m n] := by
  simp [Memory.bytes, List.range_succ]

/-- A write at or after the end of a span leaves the span. -/
theorem Memory.bytes_write_beyond (m : Memory) (n i : Nat) (b : Byte) (h : n ≤ i) :
    Memory.bytes (Memory.write m i b) n = Memory.bytes m n := by
  simp only [Memory.bytes, List.map_inj_left, List.mem_range]
  exact fun k hk => Memory.read_write_other m i k b (by omega)

/-- Writing the byte after a span and taking it in. -/
theorem Memory.bytes_write_succ (m : Memory) (lo n : Nat) (b : Byte) (h : Memory.wfFrom lo m = true) :
    Memory.bytes (Memory.write m n b) (n + 1) = Memory.bytes m n ++ [b] := by
  rw [Memory.bytes_succ, Memory.bytes_write_beyond m n n b (Nat.le_refl n), Memory.read_write_same m lo n b h]

/-! ## Checked accesses -/

/-- A checked store answers exactly the written buffer, and only inside the capacity. -/
theorem storeByte_ok {k : Buf} {cap i : Nat} {b : Byte} {m m' : Memory} (h : storeByte k cap i b m = .ok m') :
    i < cap ∧ m' = Memory.write m i b := by
  unfold storeByte at h
  split at h
  · next hi => exact ⟨hi, by simpa using h.symm⟩
  · cases h

theorem storeByte_inside (k : Buf) {cap i : Nat} (b : Byte) (m : Memory) (h : i < cap) :
    storeByte k cap i b m = .ok (Memory.write m i b) := if_pos h

/-- A checked span answers exactly the bytes, and only inside the capacity. -/
theorem loadSpan_ok {k : Buf} {cap n : Nat} {m : Memory} {bs : List Byte} (h : loadSpan k cap n m = .ok bs) :
    n ≤ cap ∧ bs = Memory.bytes m n := by
  unfold loadSpan at h
  split at h
  · next hn => exact ⟨hn, by simpa using h.symm⟩
  · cases h

theorem loadSpan_inside (k : Buf) {cap n : Nat} (m : Memory) (h : n ≤ cap) : loadSpan k cap n m = .ok (Memory.bytes m n) :=
  if_pos h

/-- Every store the machine makes keeps the canonical form. -/
theorem storeByte_wf {k : Buf} {cap i : Nat} {b : Byte} {m m' : Memory} (hm : Memory.wf cap m = true)
    (h : storeByte k cap i b m = .ok m') : Memory.wf cap m' = true := by
  obtain ⟨hi, rfl⟩ := storeByte_ok h
  exact Memory.write_wf b hm hi

end Sys2Proof.Machine
end

