-- ==== Sys2Proof/Laws/State.lean ====
section
/-! SUPPORT. One lemma per field per update of State: what each update sets and what it leaves. -/

namespace Sys2Proof.Machine

open Sys2Proof

/-! ## State.setCrc -/

@[simp] theorem State.setCrc_crc (v : Word) (s : State) : (s.setCrc v).block.crc = v := rfl
@[simp] theorem State.setCrc_dec (v : Word) (s : State) : (s.setCrc v).block.dec = s.block.dec := rfl
@[simp] theorem State.setCrc_arb (v : Word) (s : State) : (s.setCrc v).block.arb = s.block.arb := rfl
@[simp] theorem State.setCrc_sticky (v : Word) (s : State) : (s.setCrc v).block.sticky = s.block.sticky := rfl
@[simp] theorem State.setCrc_tx (v : Word) (s : State) : (s.setCrc v).tx = s.tx := rfl
@[simp] theorem State.setCrc_out (v : Word) (s : State) : (s.setCrc v).out = s.out := rfl
@[simp] theorem State.setCrc_cfg (v : Word) (s : State) : (s.setCrc v).cfg = s.cfg := rfl
@[simp] theorem State.setCrc_bus (v : Word) (s : State) : (s.setCrc v).bus = s.bus := rfl

/-! ## State.setDec -/

@[simp] theorem State.setDec_crc (d : Decoder) (s : State) : (s.setDec d).block.crc = s.block.crc := rfl
@[simp] theorem State.setDec_dec (d : Decoder) (s : State) : (s.setDec d).block.dec = d := rfl
@[simp] theorem State.setDec_arb (d : Decoder) (s : State) : (s.setDec d).block.arb = s.block.arb := rfl
@[simp] theorem State.setDec_sticky (d : Decoder) (s : State) : (s.setDec d).block.sticky = s.block.sticky := rfl
@[simp] theorem State.setDec_tx (d : Decoder) (s : State) : (s.setDec d).tx = s.tx := rfl
@[simp] theorem State.setDec_out (d : Decoder) (s : State) : (s.setDec d).out = s.out := rfl
@[simp] theorem State.setDec_cfg (d : Decoder) (s : State) : (s.setDec d).cfg = s.cfg := rfl
@[simp] theorem State.setDec_bus (d : Decoder) (s : State) : (s.setDec d).bus = s.bus := rfl

/-! ## State.setArb -/

@[simp] theorem State.setArb_crc (a : Arbiter) (s : State) : (s.setArb a).block.crc = s.block.crc := rfl
@[simp] theorem State.setArb_dec (a : Arbiter) (s : State) : (s.setArb a).block.dec = s.block.dec := rfl
@[simp] theorem State.setArb_arb (a : Arbiter) (s : State) : (s.setArb a).block.arb = a := rfl
@[simp] theorem State.setArb_sticky (a : Arbiter) (s : State) : (s.setArb a).block.sticky = s.block.sticky := rfl
@[simp] theorem State.setArb_tx (a : Arbiter) (s : State) : (s.setArb a).tx = s.tx := rfl
@[simp] theorem State.setArb_out (a : Arbiter) (s : State) : (s.setArb a).out = s.out := rfl
@[simp] theorem State.setArb_cfg (a : Arbiter) (s : State) : (s.setArb a).cfg = s.cfg := rfl
@[simp] theorem State.setArb_bus (a : Arbiter) (s : State) : (s.setArb a).bus = s.bus := rfl

/-! ## State.setSticky -/

@[simp] theorem State.setSticky_crc (f : Sticky) (s : State) : (s.setSticky f).block.crc = s.block.crc := rfl
@[simp] theorem State.setSticky_dec (f : Sticky) (s : State) : (s.setSticky f).block.dec = s.block.dec := rfl
@[simp] theorem State.setSticky_arb (f : Sticky) (s : State) : (s.setSticky f).block.arb = s.block.arb := rfl
@[simp] theorem State.setSticky_sticky (f : Sticky) (s : State) : (s.setSticky f).block.sticky = f := rfl
@[simp] theorem State.setSticky_tx (f : Sticky) (s : State) : (s.setSticky f).tx = s.tx := rfl
@[simp] theorem State.setSticky_out (f : Sticky) (s : State) : (s.setSticky f).out = s.out := rfl
@[simp] theorem State.setSticky_cfg (f : Sticky) (s : State) : (s.setSticky f).cfg = s.cfg := rfl
@[simp] theorem State.setSticky_bus (f : Sticky) (s : State) : (s.setSticky f).bus = s.bus := rfl

/-! ## State.emit -/

@[simp] theorem State.emit_crc (bs : List Byte) (s : State) : (s.emit bs).block.crc = s.block.crc := rfl
@[simp] theorem State.emit_dec (bs : List Byte) (s : State) : (s.emit bs).block.dec = s.block.dec := rfl
@[simp] theorem State.emit_arb (bs : List Byte) (s : State) : (s.emit bs).block.arb = s.block.arb := rfl
@[simp] theorem State.emit_sticky (bs : List Byte) (s : State) : (s.emit bs).block.sticky = s.block.sticky := rfl
@[simp] theorem State.emit_tx (bs : List Byte) (s : State) : (s.emit bs).tx = s.tx ++ bs := rfl
@[simp] theorem State.emit_out (bs : List Byte) (s : State) : (s.emit bs).out = s.out := rfl
@[simp] theorem State.emit_cfg (bs : List Byte) (s : State) : (s.emit bs).cfg = s.cfg := rfl
@[simp] theorem State.emit_bus (bs : List Byte) (s : State) : (s.emit bs).bus = s.bus := rfl
@[simp] theorem State.emit_block (bs : List Byte) (s : State) : (s.emit bs).block = s.block := rfl

/-! ## State.done -/

@[simp] theorem State.done_crc (s : State) : (s.done).block.crc = s.block.crc := rfl
@[simp] theorem State.done_dec (s : State) : (s.done).block.dec = s.block.dec := rfl
@[simp] theorem State.done_arb (s : State) : (s.done).block.arb = s.block.arb := rfl
@[simp] theorem State.done_sticky (s : State) : (s.done).block.sticky = s.block.sticky := rfl
@[simp] theorem State.done_tx (s : State) : (s.done).tx = s.tx := rfl
@[simp] theorem State.done_out (s : State) : (s.done).out = Outputs.quiet := rfl
@[simp] theorem State.done_cfg (s : State) : (s.done).cfg = s.cfg := rfl
@[simp] theorem State.done_bus (s : State) : (s.done).bus = s.bus := rfl
@[simp] theorem State.done_block (s : State) : (s.done).block = s.block := rfl

/-! ## State.returning -/

@[simp] theorem State.returning_crc (v : Word) (s : State) : (s.returning v).block.crc = s.block.crc := rfl
@[simp] theorem State.returning_dec (v : Word) (s : State) : (s.returning v).block.dec = s.block.dec := rfl
@[simp] theorem State.returning_arb (v : Word) (s : State) : (s.returning v).block.arb = s.block.arb := rfl
@[simp] theorem State.returning_sticky (v : Word) (s : State) : (s.returning v).block.sticky = s.block.sticky := rfl
@[simp] theorem State.returning_tx (v : Word) (s : State) : (s.returning v).tx = s.tx := rfl
@[simp] theorem State.returning_out (v : Word) (s : State) : (s.returning v).out = { Outputs.quiet with rdata := some v } := rfl
@[simp] theorem State.returning_cfg (v : Word) (s : State) : (s.returning v).cfg = s.cfg := rfl
@[simp] theorem State.returning_bus (v : Word) (s : State) : (s.returning v).bus = s.bus := rfl
@[simp] theorem State.returning_block (v : Word) (s : State) : (s.returning v).block = s.block := rfl

/-! ## State.raise -/

@[simp] theorem State.raise_crc (k : Event) (s : State) : (s.raise k).block.crc = s.block.crc := rfl
@[simp] theorem State.raise_dec (k : Event) (s : State) : (s.raise k).block.dec = s.block.dec := rfl
@[simp] theorem State.raise_arb (k : Event) (s : State) : (s.raise k).block.arb = s.block.arb := rfl
@[simp] theorem State.raise_sticky (k : Event) (s : State) : (s.raise k).block.sticky = s.block.sticky.record k := rfl
@[simp] theorem State.raise_tx (k : Event) (s : State) : (s.raise k).tx = s.tx := rfl
@[simp] theorem State.raise_out (k : Event) (s : State) : (s.raise k).out = { Outputs.quiet with event := some k } := rfl
@[simp] theorem State.raise_cfg (k : Event) (s : State) : (s.raise k).cfg = s.cfg := rfl
@[simp] theorem State.raise_bus (k : Event) (s : State) : (s.raise k).bus = s.bus := rfl

/-! ## State.clearErrors -/

@[simp] theorem State.clearErrors_crc (s : State) : (s.clearErrors).block.crc = s.block.crc := rfl
@[simp] theorem State.clearErrors_dec (s : State) : (s.clearErrors).block.dec = s.block.dec := rfl
@[simp] theorem State.clearErrors_arb (s : State) : (s.clearErrors).block.arb = s.block.arb := rfl
@[simp] theorem State.clearErrors_sticky (s : State) : (s.clearErrors).block.sticky = Sticky.reset := rfl
@[simp] theorem State.clearErrors_tx (s : State) : (s.clearErrors).tx = s.tx := rfl
@[simp] theorem State.clearErrors_out (s : State) : (s.clearErrors).out = s.out := rfl
@[simp] theorem State.clearErrors_cfg (s : State) : (s.clearErrors).cfg = s.cfg := rfl
@[simp] theorem State.clearErrors_bus (s : State) : (s.clearErrors).bus = s.bus := rfl

/-! ## The bus queue -/

@[simp] theorem State.withBus_crc (q : List TWord) (s : State) : ({ s with bus := q } : State).block.crc = s.block.crc := rfl
@[simp] theorem State.withBus_dec (q : List TWord) (s : State) : ({ s with bus := q } : State).block.dec = s.block.dec := rfl
@[simp] theorem State.withBus_arb (q : List TWord) (s : State) : ({ s with bus := q } : State).block.arb = s.block.arb := rfl
@[simp] theorem State.withBus_sticky (q : List TWord) (s : State) : ({ s with bus := q } : State).block.sticky = s.block.sticky := rfl
@[simp] theorem State.withBus_tx (q : List TWord) (s : State) : ({ s with bus := q } : State).tx = s.tx := rfl
@[simp] theorem State.withBus_out (q : List TWord) (s : State) : ({ s with bus := q } : State).out = s.out := rfl
@[simp] theorem State.withBus_cfg (q : List TWord) (s : State) : ({ s with bus := q } : State).cfg = s.cfg := rfl
@[simp] theorem State.withBus_block (q : List TWord) (s : State) : ({ s with bus := q } : State).block = s.block := rfl
@[simp] theorem issueNext_cfg (t : TWord) (s : State) : (issueNext t s).cfg = s.cfg := rfl
@[simp] theorem issueNext_bus (t : TWord) (s : State) : (issueNext t s).bus = t :: s.bus := rfl
@[simp] theorem issueNext_block (t : TWord) (s : State) : (issueNext t s).block = s.block := rfl
@[simp] theorem issueNext_tx (t : TWord) (s : State) : (issueNext t s).tx = s.tx := rfl
@[simp] theorem issueNext_out (t : TWord) (s : State) : (issueNext t s).out = s.out := rfl

/-! ## The next states that the statements name -/

@[simp] theorem State.wrote_cfg (k : Block) (s : State) : (s.wrote k).cfg = s.cfg := rfl
@[simp] theorem State.wrote_block (k : Block) (s : State) : (s.wrote k).block = k := rfl
@[simp] theorem State.wrote_tx (k : Block) (s : State) : (s.wrote k).tx = s.tx := rfl
@[simp] theorem State.wrote_out (k : Block) (s : State) : (s.wrote k).out = { rdata := none, frameDone := false, event := none } := rfl
@[simp] theorem State.wrote_bus (k : Block) (s : State) : (s.wrote k).bus = s.bus := rfl

@[simp] theorem State.readBack_cfg (v : Word) (s : State) : (s.readBack v).cfg = s.cfg := rfl
@[simp] theorem State.readBack_block (v : Word) (s : State) : (s.readBack v).block = s.block := rfl
@[simp] theorem State.readBack_tx (v : Word) (s : State) : (s.readBack v).tx = s.tx := rfl
@[simp] theorem State.readBack_out (v : Word) (s : State) : (s.readBack v).out = { rdata := some v, frameDone := false, event := none } := rfl
@[simp] theorem State.readBack_bus (v : Word) (s : State) : (s.readBack v).bus = s.bus := rfl

@[simp] theorem State.raised_cfg (f : Sticky) (e : Event) (s : State) : (s.raised f e).cfg = s.cfg := rfl
@[simp] theorem State.raised_block (f : Sticky) (e : Event) (s : State) : (s.raised f e).block = { s.block with sticky := f } := rfl
@[simp] theorem State.raised_tx (f : Sticky) (e : Event) (s : State) : (s.raised f e).tx = s.tx := rfl
@[simp] theorem State.raised_out (f : Sticky) (e : Event) (s : State) : (s.raised f e).out = { rdata := none, frameDone := false, event := some e } := rfl
@[simp] theorem State.raised_bus (f : Sticky) (e : Event) (s : State) : (s.raised f e).bus = s.bus := rfl

@[simp] theorem State.decoded_cfg (d : Decoder) (pulse : Bool) (e : Option Event) (s : State) : (s.decoded d pulse e).cfg = s.cfg := rfl
@[simp] theorem State.decoded_block (d : Decoder) (pulse : Bool) (e : Option Event) (s : State) : (s.decoded d pulse e).block = { s.block with dec := d } := rfl
@[simp] theorem State.decoded_tx (d : Decoder) (pulse : Bool) (e : Option Event) (s : State) : (s.decoded d pulse e).tx = s.tx := rfl
@[simp] theorem State.decoded_out (d : Decoder) (pulse : Bool) (e : Option Event) (s : State) : (s.decoded d pulse e).out = { rdata := none, frameDone := pulse, event := e } := rfl
@[simp] theorem State.decoded_bus (d : Decoder) (pulse : Bool) (e : Option Event) (s : State) : (s.decoded d pulse e).bus = s.bus := rfl

/-! ## The outputs -/

@[simp] theorem Outputs.quiet_rdata : Outputs.quiet.rdata = none := rfl
@[simp] theorem Outputs.quiet_frameDone : Outputs.quiet.frameDone = false := rfl
@[simp] theorem Outputs.quiet_event : Outputs.quiet.event = none := rfl

end Sys2Proof.Machine
end

