-- ==== Sys2Proof/Laws/Ops.lean ====
section
/-! SUPPORT. What each shared operation can do, said once: cite these instead of unfolding the operation. -/

namespace Sys2Proof.Machine

open Sys2Proof

/-! ## Outcomes -/

@[simp] theorem outcome_ok (t : State) : outcome (.ok t) = .next t := rfl
@[simp] theorem outcome_error (f : Fault) : outcome (.error f) = .fault f := rfl

/-- An outcome goes on exactly when the operation answered a state. -/
theorem outcome_eq_next {x : Except Fault State} {t : State} : outcome x = .next t ↔ x = .ok t := by
  cases x <;> simp [outcome]

/-- No operation refuses. -/
theorem outcome_ne_refused (x : Except Fault State) (r : Refusal) : outcome x ≠ .refused r := by
  cases x <;> simp [outcome]

theorem unlessWaiting_wait {s : State} (run : Except Fault State) (h : s.block.arb.astate = .wait) :
    unlessWaiting s run = .ok (s.raise .busyReject) := if_pos h

theorem unlessWaiting_free {s : State} (run : Except Fault State) (h : s.block.arb.astate ≠ .wait) :
    unlessWaiting s run = run := if_neg h

/-- The busy rule: an operation under it either was refused in WAIT or ran outside WAIT. -/
theorem unlessWaiting_ok {s t : State} {run : Except Fault State} (h : unlessWaiting s run = .ok t) :
    (s.block.arb.astate = .wait ∧ t = s.raise .busyReject) ∨ (s.block.arb.astate ≠ .wait ∧ run = .ok t) := by
  unfold unlessWaiting at h
  split at h
  · next hw => exact .inl ⟨hw, (Except.ok.inj h).symm⟩
  · next hw => exact .inr ⟨hw, h⟩

theorem onlyWaiting_wait {s : State} (run : Except Fault State) (h : s.block.arb.astate = .wait) :
    onlyWaiting s run = run := if_pos h

theorem onlyWaiting_free {s : State} (run : Except Fault State) (h : s.block.arb.astate ≠ .wait) :
    onlyWaiting s run = .ok s.done := if_neg h

/-- An operation that acts only in WAIT either ran there or was ignored elsewhere. -/
theorem onlyWaiting_ok {s t : State} {run : Except Fault State} (h : onlyWaiting s run = .ok t) :
    (s.block.arb.astate = .wait ∧ run = .ok t) ∨ (s.block.arb.astate ≠ .wait ∧ t = s.done) := by
  unfold onlyWaiting at h
  split at h
  · next hw => exact .inl ⟨hw, h⟩
  · next hw => exact .inr ⟨hw, (Except.ok.inj h).symm⟩

/-! ## The arbiter -/

/-- The state `send` leaves (R174). -/
def sent (s : State) : State :=
  (s.emit (Memory.bytes s.block.arb.cmd s.block.arb.cmdLen.toNat)).setArb { s.block.arb with elapsed := 0, matchLen := 0 }

theorem send_ok {c : Config} {s t : State} (h : send c s = .ok t) : s.block.arb.cmdLen.toNat ≤ c.cmdCap ∧ t = sent s := by
  unfold send at h
  split at h
  · cases h
  · next hl =>
    obtain ⟨hn, rfl⟩ := loadSpan_ok hl
    exact ⟨hn, by simpa [sent] using h.symm⟩

theorem send_inside {c : Config} {s : State} (h : s.block.arb.cmdLen.toNat ≤ c.cmdCap) : send c s = .ok (sent s) := by
  simp [send, loadSpan_inside .cmd s.block.arb.cmd h, sent]

/-- The state ARB.START leaves outside WAIT (R175). -/
def started (s : State) : State :=
  (s.emit (Memory.bytes s.block.arb.cmd s.block.arb.cmdLen.toNat)).setArb
    { s.block.arb with
      astate := if s.block.arb.patLen = 0 then .success else .wait
      attempts := 1, elapsed := 0, matchLen := 0 } |>.done

/-- ARB.START: refused in WAIT, otherwise it sends and waits, or succeeds at once on an empty pattern. -/
theorem startTransaction_ok {c : Config} {s t : State} (h : startTransaction c s = .ok t) :
    (s.block.arb.astate = .wait ∧ t = s.raise .busyReject) ∨
    (s.block.arb.astate ≠ .wait ∧ s.block.arb.cmdLen.toNat ≤ c.cmdCap ∧ t = started s) := by
  rcases unlessWaiting_ok h with h | ⟨hw, h⟩
  · exact .inl h
  · refine .inr ⟨hw, ?_⟩
    split at h
    · cases h
    · next hs =>
      obtain ⟨hn, rfl⟩ := send_ok hs
      exact ⟨by simpa using hn, (Except.ok.inj h).symm⟩

theorem startTransaction_free {c : Config} {s : State} (hw : s.block.arb.astate ≠ .wait)
    (hc : s.block.arb.cmdLen.toNat ≤ c.cmdCap) : startTransaction c s = .ok (started s) := by
  cases h : startTransaction c s with
  | ok t =>
    rcases startTransaction_ok h with ⟨hw', _⟩ | ⟨_, _, rfl⟩
    · exact absurd hw' hw
    · rfl
  | error f =>
    rw [startTransaction, unlessWaiting_free _ hw, send_inside (by simpa using hc)] at h
    cases h

/-- ARB.CMD: refused in WAIT, dropped when the buffer is full, otherwise appended (R182). -/
theorem appendCommand_ok {c : Config} {b : Byte} {s t : State} (h : appendCommand c b s = .ok t) :
    (s.block.arb.astate = .wait ∧ t = s.raise .busyReject) ∨
    (s.block.arb.astate ≠ .wait ∧ s.block.arb.cmdLen.toNat = c.cmdCap ∧ t = s.raise .overflowCmd) ∨
    (s.block.arb.astate ≠ .wait ∧ s.block.arb.cmdLen.toNat < c.cmdCap ∧
      t = (s.setArb { s.block.arb with
        cmd := Memory.write s.block.arb.cmd s.block.arb.cmdLen.toNat b, cmdLen := s.block.arb.cmdLen + 1 }).done) := by
  rcases unlessWaiting_ok h with h | ⟨hw, h⟩
  · exact .inl h
  · split at h
    · next hc => exact .inr (.inl ⟨hw, hc, (Except.ok.inj h).symm⟩)
    · split at h
      · cases h
      · next hm =>
        obtain ⟨hi, rfl⟩ := storeByte_ok hm
        exact .inr (.inr ⟨hw, hi, (Except.ok.inj h).symm⟩)

/-- ARB.PAT: refused in WAIT, dropped when the buffer is full, otherwise appended (R183). -/
theorem appendPattern_ok {c : Config} {b : Byte} {s t : State} (h : appendPattern c b s = .ok t) :
    (s.block.arb.astate = .wait ∧ t = s.raise .busyReject) ∨
    (s.block.arb.astate ≠ .wait ∧ s.block.arb.patLen.toNat = c.patCap ∧ t = s.raise .overflowPat) ∨
    (s.block.arb.astate ≠ .wait ∧ s.block.arb.patLen.toNat < c.patCap ∧
      t = (s.setArb { s.block.arb with
        pat := Memory.write s.block.arb.pat s.block.arb.patLen.toNat b, patLen := s.block.arb.patLen + 1 }).done) := by
  rcases unlessWaiting_ok h with h | ⟨hw, h⟩
  · exact .inl h
  · split at h
    · next hc => exact .inr (.inl ⟨hw, hc, (Except.ok.inj h).symm⟩)
    · split at h
      · cases h
      · next hm =>
        obtain ⟨hi, rfl⟩ := storeByte_ok hm
        exact .inr (.inr ⟨hw, hi, (Except.ok.inj h).symm⟩)

/-- The bounded search for a prefix answers at most its bound. -/
theorem longestPrefixSuffix_le (p t : List Byte) : ∀ n, longestPrefixSuffix p t n ≤ n
  | 0 => Nat.le_refl 0
  | n + 1 => by
    unfold longestPrefixSuffix
    split
    · exact Nat.le_refl _
    · exact Nat.le_succ_of_le (longestPrefixSuffix_le p t n)

/-- The match step never leaves the pattern. -/
theorem matchNext_le (p : List Byte) (k : Nat) (b : Byte) : matchNext p k b ≤ p.length :=
  Nat.le_trans (longestPrefixSuffix_le _ _ _) (Nat.min_le_right _ _)

@[simp] theorem Arbiter.pattern_length (a : Arbiter) : a.pattern.length = a.patLen.toNat := Memory.bytes_length _ _

/-- The state ARB.RX leaves in WAIT (R184). -/
def received (b : Byte) (s : State) : State :=
  (s.setArb { s.block.arb with
    matchLen := BitVec.ofNat 8 (matchNext s.block.arb.pattern s.block.arb.matchLen.toNat b)
    astate := if matchNext s.block.arb.pattern s.block.arb.matchLen.toNat b = s.block.arb.patLen.toNat then .success else .wait }).done

/-- ARB.RX: one match step in WAIT, ignored elsewhere (R184). -/
theorem receiveReply_ok {c : Config} {b : Byte} {s t : State} (h : receiveReply c b s = .ok t) :
    (s.block.arb.astate ≠ .wait ∧ t = s.done) ∨
    (s.block.arb.astate = .wait ∧ s.block.arb.matchLen.toNat < s.block.arb.patLen.toNat ∧ t = received b s) := by
  rcases onlyWaiting_ok h with ⟨hw, h⟩ | h
  · split at h
    · cases h
    · next hl =>
      obtain ⟨_, rfl⟩ := loadSpan_ok hl
      split at h
      · cases h
      · next hm =>
        exact .inr ⟨hw, by omega, (Except.ok.inj h).symm⟩
  · exact .inl h

theorem receiveReply_wait {c : Config} (b : Byte) {s : State} (hw : s.block.arb.astate = .wait)
    (hp : s.block.arb.patLen.toNat ≤ c.patCap) (hm : s.block.arb.matchLen.toNat < s.block.arb.patLen.toNat) :
    receiveReply c b s = .ok (received b s) := by
  rw [receiveReply, onlyWaiting_wait _ hw, loadSpan_inside .pat _ hp]
  simp only [if_neg (show ¬ _ from Nat.not_le.2 hm)]
  rfl

/-- The arbiter with the time of a tick added (R185). -/
def Arbiter.ticked (a : Arbiter) (d : Word) : Arbiter := { a with elapsed := addElapsed a.elapsed d }

/-- ARB.TICK: ignored outside WAIT; inside, within the limit, a resend, or TIMEOUT (R185). -/
theorem tick_ok {c : Config} {d : Word} {s t : State} (h : tick c d s = .ok t) :
    (s.block.arb.astate ≠ .wait ∧ t = s.done) ∨
    (s.block.arb.astate = .wait ∧ (addElapsed s.block.arb.elapsed d).toNat ≤ timeLimit c s.block.arb.budget ∧
      t = (s.setArb (s.block.arb.ticked d)).done) ∨
    (s.block.arb.astate = .wait ∧ timeLimit c s.block.arb.budget < (addElapsed s.block.arb.elapsed d).toNat ∧
      s.block.arb.attempts < s.block.arb.maxTries ∧ s.block.arb.cmdLen.toNat ≤ c.cmdCap ∧
      t = (sent (s.setArb { s.block.arb.ticked d with attempts := s.block.arb.attempts + 1 })).done) ∨
    (s.block.arb.astate = .wait ∧ timeLimit c s.block.arb.budget < (addElapsed s.block.arb.elapsed d).toNat ∧
      ¬ s.block.arb.attempts < s.block.arb.maxTries ∧
      t = (s.setArb { s.block.arb.ticked d with astate := .timeout }).done) := by
  rcases onlyWaiting_ok h with ⟨hw, h⟩ | h
  · simp only at h
    split at h
    · next hl =>
      split at h
      · next ha =>
        split at h
        · cases h
        · next hs =>
          obtain ⟨hn, rfl⟩ := send_ok hs
          exact .inr (.inr (.inl ⟨hw, hl, ha, by simpa using hn, (Except.ok.inj h).symm⟩))
      · next ha => exact .inr (.inr (.inr ⟨hw, hl, ha, (Except.ok.inj h).symm⟩))
    · next hl => exact .inr (.inl ⟨hw, by omega, (Except.ok.inj h).symm⟩)
  · exact .inl h

/-! ## The decoder -/

/-- HDR: a full buffer restarts; otherwise the byte is stored, and the header may be complete (R127). -/
theorem stepHdr_ok {c : Config} {b : Byte} {d : Decoder} {r : DecStep} (h : stepHdr c b d = .ok r) :
    (d.read.toNat = c.hdrCap ∧ r = dropFrame d) ∨
    (d.read.toNat < c.hdrCap ∧
      r = stepTo (if d.read + 1 = d.hdrLen.zeroExtend 32
        then headerDone c { d with hdr := Memory.write d.hdr d.read.toNat b, read := d.read + 1 }
        else { d with hdr := Memory.write d.hdr d.read.toNat b, read := d.read + 1 })) := by
  unfold stepHdr at h
  split at h
  · next hc => exact .inl ⟨hc, (Except.ok.inj h).symm⟩
  · split at h
    · cases h
    · next hm =>
      obtain ⟨hi, rfl⟩ := storeByte_ok hm
      exact .inr ⟨hi, (Except.ok.inj h).symm⟩

/-- PAY: a full buffer restarts; otherwise the byte is stored, and the payload may be complete (R129). -/
theorem stepPay_ok {c : Config} {b : Byte} {d : Decoder} {r : DecStep} (h : stepPay c b d = .ok r) :
    ((d.read - d.hdrLen.zeroExtend 32).toNat = c.payCap ∧ r = dropFrame d) ∨
    ((d.read - d.hdrLen.zeroExtend 32).toNat < c.payCap ∧
      r = stepTo (if d.read + 1 = d.hdrLen.zeroExtend 32 + d.msgLen.zeroExtend 32
        then { d with pay := Memory.write d.pay (d.read - d.hdrLen.zeroExtend 32).toNat b, read := d.read + 1, dstate := .ck1 }
        else { d with pay := Memory.write d.pay (d.read - d.hdrLen.zeroExtend 32).toNat b, read := d.read + 1 })) := by
  unfold stepPay at h
  simp only at h
  split at h
  · next hc => exact .inl ⟨hc, (Except.ok.inj h).symm⟩
  · split at h
    · cases h
    · next hm =>
      obtain ⟨hi, rfl⟩ := storeByte_ok hm
      exact .inr ⟨hi, (Except.ok.inj h).symm⟩

/-- The decoder at a CK4 byte, before the comparison (R133). -/
def Decoder.checked (d : Decoder) (b : Byte) : Decoder :=
  { d with
    rxCrc := d.rxCrc ||| (b.zeroExtend 32 <<< 24)
    calcCrc := crc32Frame (Memory.bytes d.hdr d.hdrLen.toNat) (Memory.bytes d.pay d.msgLen.toNat) }

/-- CK4: the span lies in the buffers, and the frame is accepted exactly when the trailer matches (R133). -/
theorem stepCk4_ok {c : Config} {b : Byte} {d : Decoder} {r : DecStep} (h : stepCk4 c b d = .ok r) :
    d.hdrLen.toNat ≤ c.hdrCap ∧ d.msgLen.toNat ≤ c.payCap ∧
    r = if (d.checked b).calcCrc = (d.checked b).rxCrc then acceptFrame (d.checked b) else rejectFrame (d.checked b) := by
  unfold stepCk4 frameCrc at h
  split at h
  · cases h
  · next hv =>
    split at hv
    · next hh hp =>
      obtain ⟨h1, rfl⟩ := loadSpan_ok hh
      obtain ⟨h2, rfl⟩ := loadSpan_ok hp
      simp only [Except.ok.injEq] at hv h
      subst hv
      exact ⟨h1, h2, h.symm⟩
    · cases hv
    · cases hv

theorem stepCk4_inside {c : Config} (b : Byte) {d : Decoder} (hh : d.hdrLen.toNat ≤ c.hdrCap) (hp : d.msgLen.toNat ≤ c.payCap) :
    stepCk4 c b d =
      .ok (if (d.checked b).calcCrc = (d.checked b).rxCrc then acceptFrame (d.checked b) else rejectFrame (d.checked b)) := by
  rw [stepCk4, frameCrc, loadSpan_inside .hdr d.hdr hh, loadSpan_inside .pay d.pay hp]
  rfl

/-- DEC.BYTE changes the decoder and the outputs only: the rest is what one decoder step answers (R121). -/
theorem consumeByte_ok {c : Config} {b : Byte} {s t : State} (h : consumeByte c b s = .ok t) :
    ∃ r, decStep c b s.block.dec = .ok r ∧
      t = { s.setDec { r.dec with decResult := r.result } with out := { rdata := none, frameDone := r.frameDone, event := r.event } } := by
  unfold consumeByte at h
  split at h
  · cases h
  · next r hr => exact ⟨r, hr, (Except.ok.inj h).symm⟩

theorem consumeByte_of_step {c : Config} {b : Byte} {s : State} {r : DecStep} (h : decStep c b s.block.dec = .ok r) :
    consumeByte c b s =
      .ok { s.setDec { r.dec with decResult := r.result } with out := { rdata := none, frameDone := r.frameDone, event := r.event } } := by
  simp [consumeByte, h]

/-! ## Errors -/

/-- A raise sets one sticky bit and nothing else of the block (R249). -/
theorem raise_frame (k : Event) (s : State) :
    (s.raise k).block = { s.block with sticky := s.block.sticky.record k } ∧ (s.raise k).tx = s.tx ∧ (s.raise k).bus = s.bus :=
  ⟨rfl, rfl, rfl⟩

/-- Raising never clears a sticky bit. -/
theorem Sticky.record_mono (k : Event) (f : Sticky) :
    (f.illop = true → (f.record k).illop = true) ∧ (f.cmdovf = true → (f.record k).cmdovf = true) ∧
    (f.patovf = true → (f.record k).patovf = true) ∧ (f.busy = true → (f.record k).busy = true) := by
  cases k <;> simp [Sticky.record]

end Sys2Proof.Machine
end

