-- ==== Sys2Proof/Laws/PerInstr.lean ====
section
/-! SUPPORT. The laws that hold of every operation, one lemma per constructor of `Instr`. -/

open Sys2Proof

/-- The direction bit of an operation's word says whether the operation is a bus write (R80). -/
def Sys2Proof.Laws.DirectionBit.Statement (i : Instr) : Prop := TWord.w (encode i) = i.isWrite

theorem Sys2Proof.Laws.DirectionBit.rdCaps0 : Statement .rdCaps0 :=
  TWord.w_tword _ _ _

theorem Sys2Proof.Laws.DirectionBit.rdCaps1 : Statement .rdCaps1 :=
  TWord.w_tword _ _ _

theorem Sys2Proof.Laws.DirectionBit.rdCaps2 : Statement .rdCaps2 :=
  TWord.w_tword _ _ _

theorem Sys2Proof.Laws.DirectionBit.rdCaps3 : Statement .rdCaps3 :=
  TWord.w_tword _ _ _

theorem Sys2Proof.Laws.DirectionBit.ctlReset : Statement .ctlReset :=
  TWord.w_tword _ _ _

theorem Sys2Proof.Laws.DirectionBit.ctlDecrst : Statement .ctlDecrst :=
  TWord.w_tword _ _ _

theorem Sys2Proof.Laws.DirectionBit.ctlClrerr : Statement .ctlClrerr :=
  TWord.w_tword _ _ _

theorem Sys2Proof.Laws.DirectionBit.ctlClrcnt : Statement .ctlClrcnt :=
  TWord.w_tword _ _ _

theorem Sys2Proof.Laws.DirectionBit.rdStatus : Statement .rdStatus :=
  TWord.w_tword _ _ _

theorem Sys2Proof.Laws.DirectionBit.crcSeed (v : Word) : Statement (.crcSeed v) :=
  TWord.w_tword _ _ _

theorem Sys2Proof.Laws.DirectionBit.rdCrcVal : Statement .rdCrcVal :=
  TWord.w_tword _ _ _

theorem Sys2Proof.Laws.DirectionBit.crcByte (b : Byte) : Statement (.crcByte b) :=
  TWord.w_tword _ _ _

theorem Sys2Proof.Laws.DirectionBit.decByte (b : Byte) : Statement (.decByte b) :=
  TWord.w_tword _ _ _

theorem Sys2Proof.Laws.DirectionBit.rdDecResult : Statement .rdDecResult :=
  TWord.w_tword _ _ _

theorem Sys2Proof.Laws.DirectionBit.rdDecStatus : Statement .rdDecStatus :=
  TWord.w_tword _ _ _

theorem Sys2Proof.Laws.DirectionBit.rdDecRead : Statement .rdDecRead :=
  TWord.w_tword _ _ _

theorem Sys2Proof.Laws.DirectionBit.rdDecMsginfo : Statement .rdDecMsginfo :=
  TWord.w_tword _ _ _

theorem Sys2Proof.Laws.DirectionBit.rdDecRxcrc : Statement .rdDecRxcrc :=
  TWord.w_tword _ _ _

theorem Sys2Proof.Laws.DirectionBit.rdDecCalccrc : Statement .rdDecCalccrc :=
  TWord.w_tword _ _ _

theorem Sys2Proof.Laws.DirectionBit.fbufSel (buf : BufSel) (idx : BitVec 16) : Statement (.fbufSel buf idx) :=
  TWord.w_tword _ _ _

theorem Sys2Proof.Laws.DirectionBit.rdFbufSel : Statement .rdFbufSel :=
  TWord.w_tword _ _ _

theorem Sys2Proof.Laws.DirectionBit.rdFbufData : Statement .rdFbufData :=
  TWord.w_tword _ _ _

theorem Sys2Proof.Laws.DirectionBit.rdBadcrcCnt : Statement .rdBadcrcCnt :=
  TWord.w_tword _ _ _

theorem Sys2Proof.Laws.DirectionBit.rdDropCnt : Statement .rdDropCnt :=
  TWord.w_tword _ _ _

theorem Sys2Proof.Laws.DirectionBit.arbStart : Statement .arbStart :=
  TWord.w_tword _ _ _

theorem Sys2Proof.Laws.DirectionBit.arbAbort : Statement .arbAbort :=
  TWord.w_tword _ _ _

theorem Sys2Proof.Laws.DirectionBit.arbIoerr : Statement .arbIoerr :=
  TWord.w_tword _ _ _

theorem Sys2Proof.Laws.DirectionBit.arbClrcmd : Statement .arbClrcmd :=
  TWord.w_tword _ _ _

theorem Sys2Proof.Laws.DirectionBit.arbClrpat : Statement .arbClrpat :=
  TWord.w_tword _ _ _

theorem Sys2Proof.Laws.DirectionBit.rdArbStatus : Statement .rdArbStatus :=
  TWord.w_tword _ _ _

theorem Sys2Proof.Laws.DirectionBit.arbBudget (v : Word) : Statement (.arbBudget v) :=
  TWord.w_tword _ _ _

theorem Sys2Proof.Laws.DirectionBit.rdArbBudget : Statement .rdArbBudget :=
  TWord.w_tword _ _ _

theorem Sys2Proof.Laws.DirectionBit.arbTries (n : Byte) : Statement (.arbTries n) :=
  TWord.w_tword _ _ _

theorem Sys2Proof.Laws.DirectionBit.rdArbTries : Statement .rdArbTries :=
  TWord.w_tword _ _ _

theorem Sys2Proof.Laws.DirectionBit.arbCmd (b : Byte) : Statement (.arbCmd b) :=
  TWord.w_tword _ _ _

theorem Sys2Proof.Laws.DirectionBit.arbPat (b : Byte) : Statement (.arbPat b) :=
  TWord.w_tword _ _ _

theorem Sys2Proof.Laws.DirectionBit.arbRx (b : Byte) : Statement (.arbRx b) :=
  TWord.w_tword _ _ _

theorem Sys2Proof.Laws.DirectionBit.arbTick (d : Word) : Statement (.arbTick d) :=
  TWord.w_tword _ _ _

theorem Sys2Proof.Laws.DirectionBit.rdArbLen : Statement .rdArbLen :=
  TWord.w_tword _ _ _

theorem Sys2Proof.Laws.DirectionBit.rdArbElapsedLo : Statement .rdArbElapsedLo :=
  TWord.w_tword _ _ _

theorem Sys2Proof.Laws.DirectionBit.rdArbElapsedHi : Statement .rdArbElapsedHi :=
  TWord.w_tword _ _ _

theorem Sys2Proof.Laws.DirectionBit.wrIllegal (a : Byte) (d : Word) : Statement (.wrIllegal a d) :=
  TWord.w_tword _ _ _

theorem Sys2Proof.Laws.DirectionBit.rdZero (a : Byte) : Statement (.rdZero a) :=
  TWord.w_tword _ _ _
end

