-- ==== Sys2Proof/Tests/Slice0.lean ====
section
/-! SUPPORT. The model's own tests: what the well-formedness check refuses, words written out from the spec's encodings, one step of every operation on a small state, and a witness for the hypotheses of every statement. -/

namespace Sys2Proof.Tests

open Sys2Proof Sys2Proof.Machine

/-! ## Helpers -/

/-- The state an outcome answers, if any. -/
def nextOf : Result → Option State
  | .next t => some t
  | _ => none

/-- The value a read returns. -/
def readValue (i : Instr) (s : State) : Option Word := (nextOf (exec i s)).bind fun t => t.out.rdata

/-- Whether an outcome is a next state with a property. -/
def holds (r : Result) (p : State → Bool) : Bool :=
  match r with
  | .next t => p t
  | _ => false

theorem exists_of_holds {r : Result} {p : State → Bool} (h : holds r p = true) : ∃ t, r = .next t ∧ p t = true := by
  cases r with
  | next t => exact ⟨t, rfl, h⟩
  | fault f => cases h
  | refused f => cases h

/-- The smallest build of the legal ranges of R8. -/
def smallest : Config := ⟨8, 1, 4, 6, 1, 1, 1⟩

/-- The largest build: every parameter at its upper bound that R8 allows together. -/
def largest : Config := ⟨255, 65535, 253, 251, 255, 255, 2 ^ 32 - 1⟩

/-- The smallest build with the block at `k`. -/
def smallWith (k : Block) : State := { State.resetOf smallest with block := k }

/-- The reset state with the decoder at `d`. -/
def withDec (d : Decoder) : State := State.reset.setDec d

/-- The reset state with the arbiter at `a`. -/
def withArb (a : Arbiter) : State := State.reset.setArb a

/-- The reset state with the sticky bits at `f`. -/
def withSticky (f : Sticky) : State := State.reset.setSticky f

/-- The decoder in state `d`, otherwise as after reset. -/
def decIn (d : DState) : State := withDec { Decoder.reset with dstate := d }

/-- Command `V`, pattern `OK`, budget 5, three tries, not started. -/
def loaded : Arbiter :=
  { Arbiter.reset with budget := 5, maxTries := 3, cmd := [(0, 0x56)], cmdLen := 1, pat := [(0, 0x4F), (1, 0x4B)], patLen := 2 }

/-- The same transaction while it waits for its reply. -/
def waiting : Arbiter := { loaded with astate := .wait, attempts := 1 }

/-- The decoder that holds the completed frame of test vector DF-7. -/
def retained : Decoder :=
  { Decoder.reset with
    hdr := [(0, 0xAA), (1, 0x44), (2, 0xB5), (3, 0x0A), (4, 0x02), (5, 0x01), (8, 0x01)]
    pay := [(0, 0x55)]
    hdrLen := 10, msgLen := 1, rxCrc := 0x51B0D1CC, calcCrc := 0x51B0D1CC, frameValid := true, decResult := 11 }

/-- The header of test vector DF-7. -/
def shortHeader : List Byte := [0xAA, 0x44, 0xB5, 0x0A, 0x02, 0x01, 0x00, 0x00, 0x01, 0x00]

/-- The frame of test vector DF-7, 15 bytes. -/
def shortFrame : List Byte := shortHeader ++ [0x55, 0xCC, 0xD1, 0xB0, 0x51]

/-! ## Well-formedness: every check refuses an ill-formed term -/

theorem test_wf_refuses_illegal_write_of_legal_word_form : (Instr.wrIllegal 0x20 0x5).wellFormed = false := by decide

theorem test_wf_refuses_illegal_write_of_zero_reserved_field : (Instr.wrIllegal 0x40 0xFF).wellFormed = false := by decide

theorem test_wf_refuses_illegal_write_of_one_hot_value : (Instr.wrIllegal 0x80 0x10).wellFormed = false := by decide

theorem test_wf_refuses_illegal_write_of_buffer_select : (Instr.wrIllegal 0x5C 0x1FFFF).wellFormed = false := by decide

theorem test_wf_refuses_zero_read_of_ro_register : (Instr.rdZero 0x44).wellFormed = false := by decide

theorem test_wf_refuses_zero_read_of_rw_register : (Instr.rdZero 0x88).wellFormed = false := by decide

/-- The five cases of R89 and the three of R90, each alone. -/
theorem test_checks_separate :
    misaligned 0x41 = true ∧ misaligned 0x44 = false ∧ unmapped 0x30 = true ∧ unmapped 0x31 = false ∧
    readOnly 0x44 = true ∧ readOnly 0x88 = false ∧ reservedSet 0x24 0x100 = true ∧ reservedSet 0x24 0xFF = false ∧
    reservedSet 0x5C 0x20000 = true ∧ reservedSet 0x5C 0x1FFFF = false ∧ notOneHot 0x10 0x3 = true ∧
    notOneHot 0x10 0x8 = false ∧ notOneHot 0x10 0x10 = true ∧ notOneHot 0x80 0x10 = false ∧ notOneHot 0x80 0x20 = true := by
  decide

/-! ## Decoding: a word of every row, written out from R80 and R88 -/

theorem test_decode_rdCaps0 : decode 0x00000000000 = .rdCaps0 := by decide

theorem test_decode_rdCaps1 : decode 0x004DEADBEEF = .rdCaps1 := by decide

theorem test_decode_rdCaps2 : decode 0x00800000000 = .rdCaps2 := by decide

theorem test_decode_rdCaps3 : decode 0x00C00000000 = .rdCaps3 := by decide

theorem test_decode_ctlReset : decode 0x11000000001 = .ctlReset := by decide

theorem test_decode_ctlDecrst : decode 0x11000000002 = .ctlDecrst := by decide

theorem test_decode_ctlClrerr : decode 0x11000000004 = .ctlClrerr := by decide

theorem test_decode_ctlClrcnt : decode 0x11000000008 = .ctlClrcnt := by decide

theorem test_decode_rdStatus : decode 0x01400000000 = .rdStatus := by decide

theorem test_decode_crcSeed : decode 0x12012345678 = .crcSeed 0x12345678 := by decide

theorem test_decode_rdCrcVal : decode 0x020FFFFFFFF = .rdCrcVal := by decide

theorem test_decode_crcByte : decode 0x1240000005A = .crcByte 0x5A := by decide

theorem test_decode_decByte : decode 0x140000000AA = .decByte 0xAA := by decide

theorem test_decode_rdDecResult : decode 0x04400000000 = .rdDecResult := by decide

theorem test_decode_rdDecStatus : decode 0x04800000000 = .rdDecStatus := by decide

theorem test_decode_rdDecRead : decode 0x04C00000000 = .rdDecRead := by decide

theorem test_decode_rdDecMsginfo : decode 0x05000000000 = .rdDecMsginfo := by decide

theorem test_decode_rdDecRxcrc : decode 0x05400000000 = .rdDecRxcrc := by decide

theorem test_decode_rdDecCalccrc : decode 0x05800000000 = .rdDecCalccrc := by decide

theorem test_decode_fbufSel : decode 0x15C00010200 = .fbufSel .pay 512 := by decide

theorem test_decode_rdFbufSel : decode 0x05C00000000 = .rdFbufSel := by decide

theorem test_decode_rdFbufData : decode 0x06000000000 = .rdFbufData := by decide

theorem test_decode_rdBadcrcCnt : decode 0x06400000000 = .rdBadcrcCnt := by decide

theorem test_decode_rdDropCnt : decode 0x06800000000 = .rdDropCnt := by decide

theorem test_decode_arbStart : decode 0x18000000001 = .arbStart := by decide

theorem test_decode_arbAbort : decode 0x18000000002 = .arbAbort := by decide

theorem test_decode_arbIoerr : decode 0x18000000004 = .arbIoerr := by decide

theorem test_decode_arbClrcmd : decode 0x18000000008 = .arbClrcmd := by decide

theorem test_decode_arbClrpat : decode 0x18000000010 = .arbClrpat := by decide

theorem test_decode_rdArbStatus : decode 0x08400000000 = .rdArbStatus := by decide

theorem test_decode_arbBudget : decode 0x18800000009 = .arbBudget 9 := by decide

theorem test_decode_rdArbBudget : decode 0x08800000000 = .rdArbBudget := by decide

theorem test_decode_arbTries : decode 0x18C00000002 = .arbTries 2 := by decide

theorem test_decode_rdArbTries : decode 0x08C00000000 = .rdArbTries := by decide

theorem test_decode_arbCmd : decode 0x19000000041 = .arbCmd 0x41 := by decide

theorem test_decode_arbPat : decode 0x1940000004F = .arbPat 0x4F := by decide

theorem test_decode_arbRx : decode 0x1980000004B = .arbRx 0x4B := by decide

theorem test_decode_arbTick : decode 0x19CFFFFFFFF = .arbTick 0xFFFFFFFF := by decide

theorem test_decode_rdArbLen : decode 0x0A000000000 = .rdArbLen := by decide

theorem test_decode_rdArbElapsedLo : decode 0x0A400000000 = .rdArbElapsedLo := by decide

theorem test_decode_rdArbElapsedHi : decode 0x0A800000000 = .rdArbElapsedHi := by decide

theorem test_decode_wrIllegal : decode 0x14000000144 = .wrIllegal 0x40 0x144 := by decide

theorem test_decode_rdZero : decode 0x0FC00000000 = .rdZero 0xFC := by decide

/-- The host numbers a word's bits as R80 does; a number of more than 41 bits is no transaction. -/
theorem test_decode_table_word :
    decodeTableWord 48 0x18C00000002 = some (.arbTries 2) ∧ decodeTableWord 41 0x140000000AA = some (.decByte 0xAA) ∧
    decodeTableWord 48 0x200000000000 = none := by decide

theorem test_rows_disjoint :
    opcodeTable.length = 41 ∧
    (opcodeTable.all fun r => opcodeTable.all fun r' => r.mnemonic == r'.mnemonic ||
      (r.value ^^^ r'.value) &&& (r.mask &&& r'.mask) != 0) = true := by decide

/-! ## One step of every operation -/

theorem test_rdCaps0 : readValue .rdCaps0 State.reset = some 0x0002001C := by decide

theorem test_rdCaps1 : readValue .rdCaps1 State.reset = some 0x0000FFFF := by decide

theorem test_rdCaps2 : readValue .rdCaps2 State.reset = some 0x000003E8 := by decide

theorem test_rdCaps3 : readValue .rdCaps3 State.reset = some 0x000A0804 := by decide

theorem test_ctlReset :
    holds (exec .ctlReset { withArb waiting with tx := [0x56] }) (fun t => t.block == Block.reset && t.tx == [0x56]) = true := by decide

theorem test_ctlDecrst :
    holds (exec .ctlDecrst (withDec { retained with dstate := .hdr, read := 7 })) (fun t => t.block.dec == { retained with frameValid := false, decResult := 0 }) = true := by decide

theorem test_ctlClrerr :
    holds (exec .ctlClrerr (withSticky ⟨true, true, true, true⟩)) (fun t => t.block == Block.reset) = true := by decide

theorem test_ctlClrcnt :
    holds (exec .ctlClrcnt (withDec { retained with badcrcCnt := 3, dropCnt := 4 })) (fun t => t.block.dec == retained) = true := by decide

theorem test_rdStatus : readValue .rdStatus (withSticky ⟨true, false, true, false⟩) = some 0x5 := by decide

theorem test_rdStatus_busy : readValue .rdStatus (withSticky ⟨false, true, false, true⟩) = some 0xA := by decide

theorem test_crcSeed :
    holds (exec (.crcSeed 0xDEADBEEF) State.reset) (fun t => t.block.crc == 0xDEADBEEF && t.out.rdata == none) = true := by decide

theorem test_rdCrcVal : readValue .rdCrcVal (State.reset.setCrc 0x12345678) = some 0x12345678 := by decide

-- CRC-V8 and CRC-V3 of the spec.
theorem test_crcByte :
    holds (exec (.crcByte 0x5A) (State.reset.setCrc 0xDEADBEEF)) (fun t => t.block.crc == 0xBBD5EABD) = true := by decide

theorem test_crcByte_polynomial :
    holds (exec (.crcByte 0x80) State.reset) (fun t => t.block.crc == 0xEDB88320) = true := by decide

-- DF-6: a header length below HDR_MIN_LEN; DF-7: the last trailer byte completes the frame.
theorem test_decByte_drop :
    holds (exec (.decByte 0x09) (decIn .hdrlen)) (fun t => t.block.dec == { Decoder.reset with dropCnt := 1 } && t.out.event == some .frameDrop) = true := by decide

theorem test_decByte_completes :
    holds (exec (.decByte 0x51) (withDec { retained with dstate := .ck4, read := 11, rxCrc := 0x00B0D1CC, calcCrc := 0, frameValid := false, decResult := 0 })) (fun t => t.block.dec == retained && t.out.frameDone) = true := by decide +kernel

theorem test_rdDecResult : readValue .rdDecResult (withDec retained) = some 11 := by decide

-- DF-7 and DS-1 of the spec.
theorem test_rdDecStatus : readValue .rdDecStatus (withDec retained) = some 0x00000A10 := by decide

theorem test_rdDecStatus_hdrlen :
    readValue .rdDecStatus (withDec { retained with dstate := .hdrlen, hdrLen := 28 }) = some 0x00001C13 := by decide

theorem test_rdDecRead : readValue .rdDecRead (withDec { retained with dstate := .pay, read := 10 }) = some 10 := by decide

theorem test_rdDecMsginfo : readValue .rdDecMsginfo (withDec retained) = some 0x00010102 := by decide

theorem test_rdDecRxcrc : readValue .rdDecRxcrc (withDec { retained with calcCrc := 1 }) = some 0x51B0D1CC := by decide

theorem test_rdDecCalccrc : readValue .rdDecCalccrc (withDec { retained with rxCrc := 1 }) = some 0x51B0D1CC := by decide

theorem test_fbufSel :
    holds (exec (.fbufSel .pay 512) State.reset) (fun t => t.block.dec == { Decoder.reset with fsel := 0x10200 }) = true := by decide

theorem test_rdFbufSel : readValue .rdFbufSel (withDec { retained with fsel := 0x10200 }) = some 0x00010200 := by decide

theorem test_rdFbufData_payload : readValue .rdFbufData (withDec { retained with fsel := 0x10000 }) = some 0x55 := by decide

theorem test_rdFbufData_beyond : readValue .rdFbufData (withDec { retained with fsel := 0x10200 }) = some 0 := by decide

theorem test_rdBadcrcCnt : readValue .rdBadcrcCnt (withDec { retained with badcrcCnt := 3, dropCnt := 4 }) = some 3 := by decide

theorem test_rdDropCnt : readValue .rdDropCnt (withDec { retained with badcrcCnt := 3, dropCnt := 4 }) = some 4 := by decide

-- AV-4, AV-7, AV-8 of the spec.
theorem test_arbStart :
    holds (exec .arbStart { withArb loaded with tx := [0x0A] }) (fun t => t.block.arb == waiting && t.tx == [0x0A, 0x56]) = true := by decide

theorem test_arbStart_empty_pattern :
    holds (exec .arbStart (withArb { loaded with patLen := 0 })) (fun t => t.block.arb.astate == .success && t.tx == [0x56]) = true := by decide

theorem test_arbAbort :
    holds (exec .arbAbort (withArb waiting)) (fun t => t.block.arb == { waiting with astate := .aborted }) = true := by decide

theorem test_arbIoerr :
    holds (exec .arbIoerr (withArb waiting)) (fun t => t.block.arb == { waiting with astate := .ioerr }) = true := by decide

theorem test_arbIoerr_idle :
    holds (exec .arbIoerr (withArb loaded)) (fun t => t.block.arb == loaded && t.block.sticky == Sticky.reset) = true := by decide

theorem test_arbClrcmd :
    holds (exec .arbClrcmd (withArb loaded)) (fun t => t.block.arb == { loaded with cmdLen := 0 }) = true := by decide

theorem test_arbClrpat :
    holds (exec .arbClrpat (withArb { loaded with matchLen := 1 })) (fun t => t.block.arb == { loaded with patLen := 0 }) = true := by decide

theorem test_arbClrpat_waiting :
    holds (exec .arbClrpat (withArb waiting)) (fun t => t.block.arb == waiting && t.block.sticky == { Sticky.reset with busy := true }) = true := by decide

theorem test_rdArbStatus :
    readValue .rdArbStatus (withArb { waiting with astate := .success, attempts := 3, matchLen := 2 }) = some 0x00020302 := by decide

theorem test_arbBudget :
    holds (exec (.arbBudget 9) (withArb loaded)) (fun t => t.block.arb == { loaded with budget := 9 }) = true := by decide

theorem test_rdArbBudget : readValue .rdArbBudget (withArb waiting) = some 5 := by decide

theorem test_arbTries_zero :
    holds (exec (.arbTries 0) (withArb loaded)) (fun t => t.block.arb == { loaded with maxTries := 1 }) = true := by decide

theorem test_arbTries :
    holds (exec (.arbTries 255) (withArb loaded)) (fun t => t.block.arb == { loaded with maxTries := 255 }) = true := by decide

theorem test_rdArbTries : readValue .rdArbTries (withArb waiting) = some 3 := by decide

theorem test_arbCmd :
    holds (exec (.arbCmd 0x41) (withArb loaded)) (fun t => t.block.arb == { loaded with cmd := [(0, 0x56), (1, 0x41)], cmdLen := 2 }) = true := by decide

theorem test_arbCmd_full :
    holds (exec (.arbCmd 0x42) (withArb { loaded with cmdLen := 255 })) (fun t => t.block.arb.cmdLen == 255 && t.block.sticky == { Sticky.reset with cmdovf := true }) = true := by decide

theorem test_arbPat :
    holds (exec (.arbPat 0x00) (withArb loaded)) (fun t => t.block.arb == { loaded with patLen := 3 }) = true := by decide

theorem test_arbPat_full :
    holds (exec (.arbPat 0x42) (withArb { loaded with patLen := 255 })) (fun t => t.block.arb.patLen == 255 && t.block.sticky == { Sticky.reset with patovf := true }) = true := by decide

-- AV-10: the pattern `aab` after `aa`; then the byte that completes `OK`.
theorem test_arbRx_overlap :
    holds (exec (.arbRx 0x61) (withArb { waiting with pat := [(0, 0x61), (1, 0x61), (2, 0x62)], patLen := 3, matchLen := 2 })) (fun t => t.block.arb.matchLen == 2 && t.block.arb.astate == .wait) = true := by decide

theorem test_arbRx_completes :
    holds (exec (.arbRx 0x4B) (withArb { waiting with matchLen := 1 })) (fun t => t.block.arb == { waiting with matchLen := 2, astate := .success }) = true := by decide

-- AV-3 and AV-4: at the limit the arbiter waits, one microsecond past it the command is sent again.
theorem test_arbTick_limit :
    holds (exec (.arbTick 5000) (withArb waiting)) (fun t => t.block.arb == { waiting with elapsed := 5000 } && t.tx == []) = true := by decide

theorem test_arbTick_retry :
    holds (exec (.arbTick 5001) (withArb { waiting with matchLen := 1 })) (fun t => t.block.arb == { waiting with attempts := 2 } && t.tx == [0x56]) = true := by decide

theorem test_rdArbLen : readValue .rdArbLen (withArb waiting) = some 0x00000201 := by decide

theorem test_rdArbElapsedLo :
    readValue .rdArbElapsedLo (withArb { waiting with elapsed := 0x1FFFFFFFE }) = some 0xFFFFFFFE := by decide

theorem test_rdArbElapsedHi : readValue .rdArbElapsedHi (withArb { waiting with elapsed := 0x1FFFFFFFE }) = some 0x1 := by decide

theorem test_wrIllegal :
    holds (exec (.wrIllegal 0x40 0x144) (decIn .sync2)) (fun t => t.block.dec == { Decoder.reset with dstate := .sync2 } && t.block.sticky == { Sticky.reset with illop := true }) = true := by decide

theorem test_rdZero : readValue (.rdZero 0xFC) (State.reset.setCrc 0x12345678) = some 0 := by decide

/-! ## Another build: the parameters of the state, not the chosen ones, decide -/

-- R39 to R42 packed by hand: HDR_CAP 8, PAY_CAP 1; MSGID_OFFSET 4, MSGLEN_OFFSET 6, HDR_MIN_LEN 8.
theorem test_caps_of_the_smallest_build :
    readValue .rdCaps0 (State.resetOf smallest) = some 0x00000108 ∧ readValue .rdCaps3 (State.resetOf smallest) = some 0x00080604 := by
  decide

theorem test_header_length_bound_of_the_smallest_build :
    holds (exec (.decByte 7) (smallWith { Block.reset with dec := { Decoder.reset with dstate := .hdrlen } })) (fun t => t.block.dec.dropCnt == 1) = true ∧
    holds (exec (.decByte 8) (smallWith { Block.reset with dec := { Decoder.reset with dstate := .hdrlen } })) (fun t => t.block.dec.dstate == .hdr) = true := by
  decide

theorem test_command_capacity_of_the_smallest_build :
    holds (exec (.arbCmd 0x41) (smallWith { Block.reset with arb := { Arbiter.reset with cmdLen := 1 } })) (fun t => t.block.sticky.cmdovf) = true := by
  decide

theorem test_time_limit_of_the_smallest_build :
    holds (exec (.arbTick 5) (smallWith { Block.reset with arb := waiting })) (fun t => t.block.arb.attempts == 1) = true ∧
    holds (exec (.arbTick 6) (smallWith { Block.reset with arb := waiting })) (fun t => t.block.arb.attempts == 2) = true := by
  decide

/-! ## Steps, the canonical form, the CRC and the assembler -/

-- DS-4: the first byte of a frame, placed where the next step takes it.
theorem test_step_runs_the_placed_word :
    holds (step (State.reset.withFetchWord 48 0x140000000AA)) (fun t => t.block.dec.dstate == .sync2 && t.bus == []) = true := by decide

theorem test_step_idle : holds (step State.reset) (fun t => t == State.reset) = true := by decide

theorem test_reset_memories_wf :
    (Memory.wf 28 State.reset.block.dec.hdr && Memory.wf 512 State.reset.block.dec.pay &&
      Memory.wf 255 State.reset.block.arb.cmd && Memory.wf 255 State.reset.block.arb.pat) = true := by decide

theorem test_write_zero_removes_the_cell :
    Memory.write [(1, 0x11), (4, 0x44)] 4 0 = [(1, 0x11)] ∧ Memory.write [(1, 0x11)] 0 0x22 = [(0, 0x22), (1, 0x11)] := by decide

-- CRC-V10 and CRC-V12 of the spec.
theorem test_crc_block : crc32Block 0 [0x31, 0x32, 0x33, 0x34, 0x35, 0x36, 0x37, 0x38, 0x39] = 0x2DFD2D88 := by decide +kernel

theorem test_crc_preamble : crc32Block 0 [0xAA, 0x44, 0xB5] = 0xFBF115B4 := by decide +kernel

-- The line forms of R94 and R95.
theorem test_assembler_pseudo :
    assembleLine "ARB.SEND \"V\\r\", \"OK\", 2, 1 ; limit".toList =
      .ok ⟨[.arbClrcmd, .arbCmd 0x56, .arbCmd 0x0D, .arbClrpat, .arbPat 0x4F, .arbPat 0x4B, .arbBudget 2, .arbTries 1, .arbStart], none⟩ := by decide

theorem test_assembler_expected :
    assembleLine "FBUF.GET PAY, 3 -> 0x00000004".toList = .ok ⟨[.fbufSel .pay 3, .rdFbufData], some 4⟩ := by decide

theorem test_assembler_raw : assembleLine "WR 0x40, 0x144".toList = .ok ⟨[.wrIllegal 0x40 0x144], none⟩ := by decide

-- The form of P4: the value on the line below its read; with no read directly above it the value is refused.
theorem test_assembler_value_below :
    assemble ["CRC.BLOCK 0, 0x68 ; block".toList, "   -> 0xC04F5789 ; value".toList, "RD.STATUS".toList] =
      .ok [⟨[.crcSeed 0, .crcByte 0x68, .rdCrcVal], some 0xC04F5789⟩, ⟨[.rdStatus], none⟩] := by decide

theorem test_assembler_value_alone :
    assembleLine "-> 1".toList = .error .valueWithoutRead ∧
    assemble ["CRC.SEED 0".toList, "-> 1".toList] = .error .valueWithoutRead := by decide

theorem test_assembler_range : assembleLine "CRC.BYTE 256".toList = .error .operandRange := by decide

/-! ## Witnesses: concrete states and operands that meet the hypotheses of each statement -/

theorem witness_DecodeReadsBackEveryEncodedOperation :
    (Instr.fbufSel .pay 0xFFFF).wellFormed = true ∧ (Instr.arbTries 0xFF).wellFormed = true ∧
    (Instr.wrIllegal 0x40 0x100).wellFormed = true ∧ (Instr.rdZero 0xFC).wellFormed = true := by decide

theorem witness_DecodeSelectsTheRowOfTheOpcodeTable :
    (∃ r ∈ opcodeTable, rowSelects r 0x140000000FF = true) ∧ ∀ r ∈ opcodeTable, rowSelects r 0x14000000100 = false := by decide

/-- One write for each of the five cases of R89. -/
theorem witness_IllegalWritesAreExactlyTheFiveCases :
    illegalWrite 0x41 0 = true ∧ illegalWrite 0x30 5 = true ∧ illegalWrite 0x44 1 = true ∧ illegalWrite 0x40 0x100 = true ∧
    illegalWrite 0x10 3 = true ∧ illegalWrite 0x5C 0x20000 = true ∧ illegalWrite 0x80 0 = true := by decide

theorem witness_ReadsThatMatchNoRowReturnZero :
    zeroRead 0x21 = true ∧ zeroRead 0x30 = true ∧ zeroRead 0x40 = true ∧ zeroRead 0xFF = true := by decide

theorem witness_StepPerformsTheDecodedOperation : (Instr.wrIllegal 0x10 0x3).wellFormed = true := by decide

theorem witness_QueuedTransactionsRunInIssueOrder :
    ∀ i ∈ [Instr.crcSeed 0xFFFFFFFF, .crcByte 0x31, .rdCrcVal, .rdZero 0x21], i.wellFormed = true := by decide

/-- The chosen configuration, and the extremes of the legal ranges of R8. -/
theorem config_legal : config.Legal := by decide

theorem smallest_legal : smallest.Legal := by decide

theorem largest_legal : largest.Legal := by decide

/-- A state of the chosen build and one of another. -/
theorem witness_CapabilityReadsReturnTheChosenParameters :
    (withArb waiting).cfg = State.reset.cfg ∧ (State.resetOf smallest).cfg ≠ State.reset.cfg := by decide

theorem witness_CapabilityFieldsReportEveryLegalParameter : config.Legal ∧ largest.Legal ∧ smallest.Legal :=
  ⟨config_legal, largest_legal, smallest_legal⟩

/-- A non-zero reserved field: the hypothesis of the illegal words of the byte, tries and buffer-select forms. -/
theorem witness_reserved_field :
    (0x00000100 : Word).extractLsb' 8 24 ≠ 0 ∧ (0x80000000 : Word).extractLsb' 8 24 ≠ 0 ∧
    (0x00020000 : Word).extractLsb' 17 15 ≠ 0 ∧ (0x80000000 : Word).extractLsb' 17 15 ≠ 0 := by decide

theorem witness_CrcOperationsLoadFoldAndReturn : (0x000001AA : Word).extractLsb' 8 24 ≠ 0 := by decide

theorem witness_CrcBlockComputesTheBlockFunction :
    (∀ i ∈ [Instr.crcByte 0x31, .decByte 0xAA, .rdStatus], i ≠ .ctlReset ∧ ∀ v, i ≠ .crcSeed v) ∧
    ∃ t, runOps [.crcSeed 0, .crcByte 0x31, .decByte 0xAA, .rdStatus] State.reset = .next t := by
  refine ⟨by simp, ?_⟩
  obtain ⟨t, h, -⟩ := exists_of_holds (p := fun _ => true)
    (show holds (runOps [.crcSeed 0, .crcByte 0x31, .decByte 0xAA, .rdStatus] State.reset) _ = true by decide +kernel)
  exact ⟨t, h⟩

theorem witness_CrcFunctionObeysItsLaws : ([0xAA, 0x44] : List Byte).length = ([0x00, 0xFF] : List Byte).length := by decide

theorem witness_OneChangedByteChangesTheCrc : (0xB4 : Byte) ≠ 0xB5 := by decide

/-- Every decoder state of the clauses, with the two header lengths at the boundary of `HDR_MIN_LEN`. -/
theorem witness_PreambleAndLengthSteps :
    (decIn .sync1).block.dec.dstate = .sync1 ∧ (decIn .sync2).block.dec.dstate = .sync2 ∧
    (decIn .sync3).block.dec.dstate = .sync3 ∧ (decIn .hdrlen).block.dec.dstate = .hdrlen ∧
    (decIn .hdrlen).cfg.Legal ∧ Memory.wf (decIn .hdrlen).cfg.hdrCap (decIn .hdrlen).block.dec.hdr = true ∧
    (9 : Byte).toNat < (decIn .hdrlen).cfg.hdrMinLen ∧ (decIn .hdrlen).cfg.hdrMinLen ≤ (10 : Byte).toNat ∧
    (254 : Byte).toNat < largest.hdrMinLen ∧ largest.hdrMinLen ≤ (255 : Byte).toNat := by decide

/-- The last header byte, a byte before it, and the byte past the buffer. -/
theorem witness_HeaderStepStoresAndCompletes :
    let s : Nat → Byte → State := fun r n => withDec { retained with dstate := .hdr, read := BitVec.ofNat 32 r, hdrLen := n }
    (s 27 28).cfg.Legal ∧ (s 27 28).block.dec.dstate = .hdr ∧ Memory.wf (s 27 28).cfg.hdrCap (s 27 28).block.dec.hdr = true ∧
    ((s 27 28).block.dec.read.toNat < (s 27 28).cfg.hdrCap ∧ (s 27 28).block.dec.read.toNat + 1 = (s 27 28).block.dec.hdrLen.toNat) ∧
    ((s 27 29).block.dec.read.toNat < (s 27 29).cfg.hdrCap ∧ (s 27 29).block.dec.read.toNat + 1 ≠ (s 27 29).block.dec.hdrLen.toNat) ∧
    (s 28 29).block.dec.read.toNat = (s 28 29).cfg.hdrCap := by decide

/-- The last payload byte that fits, and the byte past the buffer. -/
theorem witness_PayloadStepStoresAndCompletes :
    let s : Nat → State := fun r => withDec { retained with dstate := .pay, read := BitVec.ofNat 32 r, msgLen := 513 }
    (s 521).cfg.Legal ∧ (s 521).block.dec.dstate = .pay ∧ Memory.wf (s 521).cfg.payCap (s 521).block.dec.pay = true ∧
    ((s 521).block.dec.hdrLen.toNat ≤ (s 521).block.dec.read.toNat ∧
      (s 521).block.dec.read.toNat < (s 521).block.dec.hdrLen.toNat + (s 521).cfg.payCap) ∧
    (s 10).block.dec.hdrLen.toNat ≤ (s 10).block.dec.read.toNat ∧
    (s 522).block.dec.read.toNat = (s 522).block.dec.hdrLen.toNat + (s 522).cfg.payCap := by decide

theorem witness_TrailerStepsAssembleTheReceivedCrc :
    (decIn .ck1).block.dec.dstate = .ck1 ∧ (decIn .ck2).block.dec.dstate = .ck2 ∧ (decIn .ck3).block.dec.dstate = .ck3 := by decide

/-- DF-7 before its last byte: with 0x51 the trailer matches, with 0x50 it does not; the lengths at the capacities. -/
theorem witness_CheckStepAcceptsExactlyAMatchingTrailer :
    let d : Decoder := { retained with dstate := .ck4, rxCrc := 0x00B0D1CC }
    (d.dstate = .ck4 ∧ d.hdrLen.toNat ≤ (withDec d).cfg.hdrCap ∧ d.msgLen.toNat ≤ (withDec d).cfg.payCap) ∧
    ((0x51B0D1CC : Word) = d.rxCrc ||| ((0x51 : Byte).zeroExtend 32 <<< 24) ∧
      crc32Block (crc32Block 0 d.header) d.payload = 0x51B0D1CC) ∧
    ((0x50B0D1CC : Word) = d.rxCrc ||| ((0x50 : Byte).zeroExtend 32 <<< 24) ∧
      crc32Block (crc32Block 0 d.header) d.payload ≠ 0x50B0D1CC) := by decide +kernel

theorem witness_CheckStepAcceptsExactlyAMatchingTrailer_boundary :
    let d : Decoder := { retained with dstate := .ck4, hdrLen := 28, msgLen := 512, rxCrc := 0 }
    d.dstate = .ck4 ∧ d.hdrLen.toNat = (withDec d).cfg.hdrCap ∧ d.msgLen.toNat = (withDec d).cfg.payCap ∧
    (0x01000000 : Word) = d.rxCrc ||| ((0x01 : Byte).zeroExtend 32 <<< 24) := by decide

theorem witness_BufferSelectAndReadReturnTheSelectedByte : (0x00020000 : Word).extractLsb' 17 15 ≠ 0 := by decide

theorem reset_inv : State.reset.Inv := ⟨config_legal, by decide⟩

theorem short_body : FrameBody State.reset.cfg shortHeader [0x55] := by decide

/-- The frame of DF-7, and the bounds of the lengths: header 10 and 28 bytes, payload 0 and 512 bytes. -/
theorem witness_FramedBytesAreDecidedAtTheLastTrailerByte :
    (State.reset.Inv ∧ State.reset.block.dec.dstate = .sync1) ∧ FrameBody State.reset.cfg shortHeader [0x55] ∧
    FrameBody State.reset.cfg [0xAA, 0x44, 0xB5, 0x0A, 0, 0, 0, 0, 0, 0] [] ∧
    FrameBody State.reset.cfg ([0xAA, 0x44, 0xB5, 0x1C, 0xF1, 0, 0, 0, 0x00, 0x02] ++ List.replicate 18 0) (List.replicate 512 0xFF) := by
  refine ⟨⟨reset_inv, rfl⟩, short_body, by decide, ?_⟩
  simp only [FrameBody, List.length_replicate]
  decide

/-- Both ways to reach SYNC1 before the frame: DF-4's broken preamble, and garbage without 0xAA. -/
theorem witness_WellFormedFrameCompletesExactlyOnce :
    (State.reset.Inv ∧ FrameBody State.reset.cfg shortHeader [0x55]) ∧
    (∃ u, feed [0xAA, 0x44, 0x00] State.reset = .next u ∧ u.block.dec.dstate = .sync1) ∧
    State.reset.block.dec.dstate = .sync1 ∧ ∀ b ∈ ([0x00, 0x13, 0xFF] : List Byte), b ≠ 0xAA := by
  refine ⟨⟨reset_inv, short_body⟩, ?_, by decide, by decide⟩
  obtain ⟨u, h, hu⟩ := exists_of_holds (p := fun u => u.block.dec.dstate == .sync1)
    (show holds (feed [0xAA, 0x44, 0x00] State.reset) _ = true by decide)
  exact ⟨u, h, by simpa using hu⟩

/-- CTL.RESET, then the frame of DF-7 with a CRC.BYTE in its midst. -/
theorem witness_PositiveResultOnlyAfterAWellFormedFrame :
    let ops := .decByte 0xAA :: .crcByte 0x31 :: shortFrame.tail.map Instr.decByte
    State.reset.Inv ∧ (∀ i ∈ ops, i ≠ .ctlDecrst ∧ i ≠ .ctlReset) ∧
    ∃ t, runOps (.ctlReset :: ops) State.reset = .next t ∧ t.block.dec.decResult ≠ 0 := by
  refine ⟨reset_inv, by decide, ?_⟩
  obtain ⟨t, h, ht⟩ := exists_of_holds (p := fun t => t.block.dec.decResult != 0)
    (show holds (runOps (.ctlReset :: .decByte 0xAA :: .crcByte 0x31 :: shortFrame.tail.map Instr.decByte) State.reset) _ = true by
      decide +kernel)
  exact ⟨t, h, by simpa using ht⟩

/-- The first and the last byte that may carry the flipped bit. -/
theorem witness_SingleBitErrorsAreRejected :
    (State.reset.Inv ∧ State.reset.block.dec.dstate = .sync1 ∧ FrameBody State.reset.cfg shortHeader [0x55]) ∧
    (∀ pos ∈ [4, 14], 4 ≤ pos ∧ pos ≠ State.reset.cfg.msglenOffset ∧ pos ≠ State.reset.cfg.msglenOffset + 1 ∧
      pos < (frameBytes shortHeader [0x55]).length) ∧ 0 < 8 ∧ 7 < 8 :=
  ⟨⟨reset_inv, rfl, short_body⟩, by decide, by decide, by decide⟩

theorem witness_CrcUnitTrailerMakesTheDecoderMatch :
    State.reset.Inv ∧ State.reset.block.dec.dstate = .sync1 ∧ FrameBody State.reset.cfg shortHeader [0x55] :=
  ⟨reset_inv, rfl, short_body⟩

/-- A completing DEC.BYTE; an ordinary operation after it; a header length refused and one accepted. -/
theorem witness_CompletedFrameIsKeptUntilOverwritten :
    (∃ t, exec (.decByte 0x51) (withDec { retained with dstate := .ck4, read := 11, rxCrc := 0x00B0D1CC }) = .next t ∧
      t.block.dec.decResult ≠ 0) ∧
    ((withDec { retained with dstate := .hdrlen }).block.dec.frameValid = true ∧
      (withDec { retained with dstate := .hdrlen }).block.dec.dstate.beforeHeader = true ∧
      (∃ t, exec (.decByte 9) (withDec { retained with dstate := .hdrlen }) = .next t) ∧
      Instr.decByte 9 ≠ .ctlReset ∧ Instr.decByte 9 ≠ .ctlDecrst ∧
      ∀ b, Instr.decByte 9 = .decByte b → b.toNat < (withDec { retained with dstate := .hdrlen }).cfg.hdrMinLen) ∧
    ((withDec { retained with dstate := .hdrlen }).block.dec.dstate = .hdrlen ∧
      (withDec { retained with dstate := .hdrlen }).cfg.hdrMinLen ≤ (10 : Byte).toNat ∧
      ∃ t, exec (.decByte 10) (withDec { retained with dstate := .hdrlen }) = .next t) := by
  obtain ⟨t, h, ht⟩ := exists_of_holds (p := fun t => t.block.dec.decResult != 0)
    (show holds (exec (.decByte 0x51) (withDec { retained with dstate := .ck4, read := 11, rxCrc := 0x00B0D1CC })) _ = true by
      decide +kernel)
  refine ⟨⟨t, h, by simpa using ht⟩, ⟨rfl, rfl, ⟨_, rfl⟩, by decide, by decide, ?_⟩, ⟨rfl, by decide, ⟨_, rfl⟩⟩⟩
  intro b hb
  cases hb
  decide

theorem retained_inv : (withDec retained).Inv ∧ (withDec retained).FrameInv :=
  ⟨⟨config_legal, by decide +kernel⟩, by decide +kernel⟩

theorem witness_ValidFlagMeansACheckedFrameAfterEveryStep :
    let s := issueNext 0x140000000AA (withDec retained)
    s.Inv ∧ s.FrameInv ∧ s.block.dec.frameValid = true ∧ ∃ t, step s = .next t :=
  ⟨retained_inv.1, retained_inv.2, rfl, _, rfl⟩

theorem witness_CompletedFrameSurvivesThreeBytes :
    (withDec retained).block.dec.dstate = .sync1 ∧ (withDec retained).block.dec.frameValid = true ∧
    ([0xAA, 0x44, 0xB5] : List Byte).length ≤ 3 := by decide

theorem witness_StartSendsTheCommandAndWaits :
    ((withArb loaded).block.arb.astate ≠ .wait ∧ (withArb loaded).block.arb.cmdLen.toNat ≤ (withArb loaded).cfg.cmdCap) ∧
    (withArb { loaded with cmdLen := 255 }).block.arb.cmdLen.toNat = (withArb loaded).cfg.cmdCap ∧
    (withArb waiting).block.arb.astate = .wait := by decide

theorem witness_ConfigurationIsRefusedWhileWaiting :
    (withArb waiting).block.arb.astate = .wait ∧ ∃ v, Instr.arbBudget 9 = .arbBudget v := ⟨rfl, 9, rfl⟩

theorem witness_ConfigurationWritesStoreOutsideWait :
    (withArb loaded).block.arb.astate ≠ .wait ∧ (1 : Byte) ≠ 0 ∧ (0x00000100 : Word).extractLsb' 8 24 ≠ 0 ∧
    (withArb waiting).block.arb.astate = .wait := by decide

/-- The last free place of each buffer, and each buffer full. -/
theorem witness_AppendStoresOneByteOrOverflows :
    let s : Byte → State := fun n => withArb { loaded with cmdLen := n, patLen := n }
    (withArb waiting).block.arb.astate = .wait ∧ (s 254).block.arb.astate ≠ .wait ∧
    Memory.wf (s 254).cfg.cmdCap (s 254).block.arb.cmd = true ∧ Memory.wf (s 254).cfg.patCap (s 254).block.arb.pat = true ∧
    (s 254).block.arb.cmdLen.toNat < (s 254).cfg.cmdCap ∧ (s 254).block.arb.patLen.toNat < (s 254).cfg.patCap ∧
    (s 255).block.arb.cmdLen.toNat = (s 255).cfg.cmdCap ∧ (s 255).block.arb.patLen.toNat = (s 255).cfg.patCap := by decide

theorem witness_AbortAndIoerrEndOnlyAWaitingTransaction :
    (withArb waiting).block.arb.astate = .wait ∧ (withArb loaded).block.arb.astate ≠ .wait := by decide

/-- The first and the last match length of the pattern `aab`. -/
theorem witness_MatchStepIsTheLargestPrefixSuffix :
    0 < ([0x61, 0x61, 0x62] : List Byte).length ∧ 2 < ([0x61, 0x61, 0x62] : List Byte).length := by decide

theorem witness_ReplyByteAdvancesTheMatch :
    (withArb { waiting with matchLen := 1 }).block.arb.astate = .wait ∧
    (withArb waiting).block.arb.patLen.toNat ≤ (withArb waiting).cfg.patCap ∧
    (withArb { waiting with matchLen := 1 }).block.arb.matchLen.toNat < (withArb waiting).block.arb.patLen.toNat ∧
    (withArb loaded).block.arb.astate ≠ .wait ∧ (0x00000100 : Word).extractLsb' 8 24 ≠ 0 := by decide

/-- The elapsed time at the limit and one past it, with a try left and with none, and at the top of 64 bits. -/
theorem witness_TickAdvancesTimeRetriesOrTimesOut :
    let s := withArb waiting
    let last := withArb { waiting with attempts := 3 }
    (s.block.arb.astate = .wait ∧ (5000 : BitVec 64).toNat = min (s.block.arb.elapsed.toNat + (5000 : Word).toNat) (2 ^ 64 - 1) ∧
      (5000 : BitVec 64).toNat ≤ s.block.arb.budget.toNat * s.cfg.timeoutMult) ∧
    ((5001 : BitVec 64).toNat = min (s.block.arb.elapsed.toNat + (5001 : Word).toNat) (2 ^ 64 - 1) ∧
      s.block.arb.budget.toNat * s.cfg.timeoutMult < (5001 : BitVec 64).toNat ∧
      s.block.arb.attempts.toNat < s.block.arb.maxTries.toNat ∧ s.block.arb.cmdLen.toNat ≤ s.cfg.cmdCap) ∧
    (last.block.arb.astate = .wait ∧ last.block.arb.maxTries.toNat ≤ last.block.arb.attempts.toNat ∧
      (5001 : BitVec 64).toNat = min (last.block.arb.elapsed.toNat + (5001 : Word).toNat) (2 ^ 64 - 1)) ∧
    (withArb loaded).block.arb.astate ≠ .wait ∧
    (0xFFFFFFFFFFFFFFFF : BitVec 64).toNat =
      min ((0xFFFFFFFFFFFFFFFF : BitVec 64).toNat + (0xFFFFFFFF : Word).toNat) (2 ^ 64 - 1) := by decide

theorem witness_TimeLimitNeverWraps : largest.Legal := largest_legal

/-- `xOOK` holds the pattern, `xOO` does not (AV-1). -/
theorem witness_StreamingMatchIsSubstringSearch :
    (withArb waiting).block.arb.astate = .wait ∧ (withArb waiting).block.arb.patLen.toNat ≤ (withArb waiting).cfg.patCap ∧
    (withArb waiting).block.arb.matchLen = 0 ∧
    (withArb waiting).block.arb.patLen ≠ 0 ∧ (withArb waiting).block.arb.pattern <:+: [0x78, 0x4F, 0x4F, 0x4B] ∧
    ¬ (withArb waiting).block.arb.pattern <:+: [0x78, 0x4F, 0x4F] := by decide

/-- The reply completes after 5000 microseconds, at the limit of budget 5, and after 5001, past it (L1-7, AV-2). -/
theorem witness_ReplyInTimeSucceedsAndLateReplyFails :
    let s := withArb { loaded with maxTries := 1 }
    let ops : Word → List Instr := fun d => [.arbRx 0x4F, .arbTick d]
    s.Inv ∧ (s.block.arb.astate ≠ .wait ∧ s.block.arb.maxTries = 1 ∧ s.block.arb.patLen ≠ 0) ∧
    ((∀ i ∈ ops 5000, (∃ d, i = .arbTick d) ∨ ∃ x, i = .arbRx x) ∧ (∀ i ∈ ops 5001, (∃ d, i = .arbTick d) ∨ ∃ x, i = .arbRx x)) ∧
    (¬ s.block.arb.pattern <:+: (ops 5000).filterMap rxOperand ∧
      s.block.arb.pattern <:+: (ops 5000).filterMap rxOperand ++ [0x4B]) ∧
    totalTicks (ops 5000) ≤ s.block.arb.budget.toNat * s.cfg.timeoutMult ∧
    s.block.arb.budget.toNat * s.cfg.timeoutMult < totalTicks (ops 5001) := by
  refine ⟨⟨config_legal, by decide⟩, by decide, ⟨by simp, by simp⟩, by decide, by decide, by decide⟩

/-- One retry and the final timeout (AV-5). -/
theorem witness_OneTransactionSendsAtMostMaxTriesCommands :
    (withArb { loaded with maxTries := 2 }).Inv ∧ (withArb { loaded with maxTries := 2 }).block.arb.astate ≠ .wait ∧
    Instr.arbStart ∉ [Instr.arbTick 5001, .arbTick 5001] ∧
    ∃ t, runOps [.arbStart, .arbTick 5001, .arbTick 5001] (withArb { loaded with maxTries := 2 }) = .next t := by
  refine ⟨⟨config_legal, by decide⟩, by decide, by decide, ?_⟩
  obtain ⟨t, h, -⟩ := exists_of_holds (p := fun _ => true)
    (show holds (runOps [.arbStart, .arbTick 5001, .arbTick 5001] (withArb { loaded with maxTries := 2 })) _ = true by decide)
  exact ⟨t, h⟩

/-- Budget 0 and the last try: one non-zero tick is enough (AV-13). -/
theorem witness_EnoughTicksEndEveryTransaction :
    let s := withArb { waiting with budget := 0, maxTries := 1 }
    s.Inv ∧ s.block.arb.astate = .wait ∧ (∀ d ∈ ([1] : List Word), d ≠ 0) ∧
    (s.block.arb.maxTries.toNat - s.block.arb.attempts.toNat + 1) * (s.block.arb.budget.toNat * s.cfg.timeoutMult + 1) ≤
      ([1] : List Word).length :=
  ⟨⟨config_legal, by decide⟩, rfl, by simp, by decide⟩

theorem witness_WaitingTransactionKeepsItsConfiguration :
    (withArb waiting).block.arb.astate = .wait ∧
    ∃ t, exec (.arbTick 5001) (withArb waiting) = .next t ∧ t.block.arb.astate = .wait := by
  refine ⟨rfl, ?_⟩
  obtain ⟨t, h, ht⟩ := exists_of_holds (p := fun t => t.block.arb.astate == .wait)
    (show holds (exec (.arbTick 5001) (withArb waiting)) _ = true by decide)
  exact ⟨t, h, by simpa using ht⟩

/-- One operation of each unit, run on two states of one build that agree on that unit alone; the ARB.TICK sends. -/
theorem witness_UnitsAreIndependent :
    let s := withArb waiting
    let s' := (withArb waiting).setCrc 0x12345678
    (s.cfg = s'.cfg ∧ s.cfg = (withArb loaded).cfg) ∧
    (unitOf (.arbTick 5001) = .arbiter ∧ s.block.arb = s'.block.arb ∧ s.tx = s'.tx ∧
      (∃ t, exec (.arbTick 5001) s = .next t) ∧ ∃ t, exec (.arbTick 5001) s' = .next t) ∧
    (unitOf (.decByte 0xAA) = .decoder ∧ s.block.dec = s'.block.dec ∧ (∃ t, exec (.decByte 0xAA) s = .next t) ∧
      ∃ t, exec (.decByte 0xAA) s' = .next t) ∧
    (unitOf (.crcByte 1) = .crc ∧ s.block.crc = (withArb loaded).block.crc ∧ (∃ t, exec (.crcByte 1) s = .next t) ∧
      ∃ t, exec (.crcByte 1) (withArb loaded) = .next t) :=
  ⟨⟨rfl, rfl⟩, ⟨rfl, rfl, rfl, ⟨_, rfl⟩, ⟨_, rfl⟩⟩, ⟨rfl, rfl, ⟨_, rfl⟩, ⟨_, rfl⟩⟩, ⟨rfl, rfl, ⟨_, rfl⟩, ⟨_, rfl⟩⟩⟩

theorem witness_ReadsHaveNoSideEffects :
    TWord.w 0x0FCDEADBEEF = false ∧ TWord.w 0x0FC00000000 = false ∧ TWord.a 0x0FC00000000 = TWord.a 0x0FCDEADBEEF := by decide

/-- An operation that raises each of the four errors, with its sticky bit clear before. -/
theorem witness_ErrorsArePrecise :
    let raises : Instr → State → Event → Bool := fun i s e => holds (exec i s) fun t => t.out.event == some e
    raises (.wrIllegal 0x44 1) State.reset .illegalAccess = true ∧ raises .arbStart (withArb waiting) .busyReject = true ∧
    raises (.arbCmd 1) (withArb { loaded with cmdLen := 255 }) .overflowCmd = true ∧
    raises (.arbPat 1) (withArb { loaded with patLen := 255 }) .overflowPat = true ∧
    holds (exec (.wrIllegal 0x44 1) State.reset) (fun t => t.block.sticky.illop) = true ∧
    holds (exec .arbStart (withArb waiting)) (fun t => t.block.sticky.busy) = true ∧
    holds (exec (.arbCmd 1) (withArb { loaded with cmdLen := 255 })) (fun t => t.block.sticky.cmdovf) = true ∧
    holds (exec (.arbPat 1) (withArb { loaded with patLen := 255 })) (fun t => t.block.sticky.patovf) = true ∧
    State.reset.block.sticky = Sticky.reset := by decide

/-- A reserved bit in WAIT, a legal append in WAIT, an overflow outside it, and the DEC.BYTE that completes a frame. -/
theorem witness_ErrorPriorityWithinOneOperation :
    ((0x90 : Byte) ∈ ([0x24, 0x40, 0x8C, 0x90, 0x94, 0x98] : List Byte) ∧ (0x00000100 : Word).extractLsb' 8 24 ≠ 0) ∧
    (withArb { waiting with cmdLen := 255, patLen := 255 }).block.arb.astate = .wait ∧
    holds (exec (.arbCmd 1) (withArb { loaded with cmdLen := 255 })) (fun t => t.out.event == some .overflowCmd) = true ∧
    holds (exec (.decByte 0x51) (withDec { retained with dstate := .ck4, rxCrc := 0x00B0D1CC })) (fun t => t.out.frameDone) = true := by
  decide +kernel

/-- A clearing operation and one that is not; both answer a next state. -/
theorem witness_StickyBitsAreSetAndClearedAsNamed :
    (∃ t, exec .ctlClrerr (withSticky ⟨true, true, true, true⟩) = .next t) ∧
    (∃ t, exec (.arbBudget 1) (withArb waiting) = .next t) ∧ Instr.arbBudget 1 ≠ .ctlClrerr ∧ Instr.arbBudget 1 ≠ .ctlReset :=
  ⟨⟨_, rfl⟩, ⟨_, rfl⟩, by decide, by decide⟩

theorem witness_OutputsAreDrivenAsTheSpecSays :
    holds (exec (.arbTick 5001) (withArb waiting)) (fun t => t.tx == [0x56]) = true ∧
    holds (exec (.decByte 0x51) (withDec { retained with dstate := .ck4, rxCrc := 0x00B0D1CC })) (fun t => t.out.frameDone) = true := by
  decide +kernel

/-- A change of each kind: the register, the counters at their wrap, `frame_valid` falling, a terminal state left by
ARB.START, WAIT left by ARB.ABORT. -/
theorem witness_EachElementIsWrittenOnlyByItsOperations :
    let bad := withDec { Decoder.reset with dstate := .ck4, badcrcCnt := 0xFFFFFFFF }
    let low := withDec { Decoder.reset with dstate := .hdrlen, dropCnt := 0xFFFFFFFF }
    let ended := withArb { loaded with astate := .timeout }
    holds (exec (.crcByte 1) State.reset) (fun t => t.block.crc != State.reset.block.crc) = true ∧
    holds (exec (.decByte 1) bad) (fun t => t.block.dec.badcrcCnt == 0) = true ∧
    holds (exec (.decByte 1) low) (fun t => t.block.dec.dropCnt == 0) = true ∧
    ended.arbDone = true ∧ holds (exec .arbStart ended) (fun t => t.block.arb.astate == .wait) = true ∧
    holds (exec (.arbTick 1) ended) (fun t => t.block.arb.astate == .timeout) = true ∧
    holds (exec (.decByte 10) (withDec { retained with dstate := .hdrlen })) (fun t => t.block.dec.frameValid == false) = true ∧
    holds (exec .arbAbort (withArb waiting)) (fun t => t.block.arb.astate == .aborted) = true := by decide +kernel

theorem witness_ResetMeetsTheInvariants : smallest.Legal ∧ largest.Legal := ⟨smallest_legal, largest_legal⟩

theorem waiting_inv : (withArb waiting).Inv := ⟨config_legal, by decide⟩

theorem witness_EveryStepKeepsTheInvariant :
    (issueNext 0x19C00001389 (withArb waiting)).Inv ∧
    holds (step (issueNext 0x19C00001389 (withArb waiting))) (fun t => t.tx == [0x56]) = true :=
  ⟨waiting_inv, by decide⟩

theorem witness_InvariantStatesNeverStop : (withArb waiting).Inv ∧ (withDec retained).Inv := ⟨waiting_inv, retained_inv.1⟩

theorem witness_EveryLegalConfigurationKeepsTheInvariant :
    (config.Legal ∧ (withArb waiting).block.Inv config) ∧ (smallest.Legal ∧ State.reset.block.Inv smallest) ∧ largest.Legal :=
  ⟨⟨config_legal, waiting_inv.2⟩, ⟨smallest_legal, by decide⟩, largest_legal⟩

end Sys2Proof.Tests
end

section
/-! SUPPORT. What one operation can do to the machine, said once: the error it raises, and the inversion of `exec` by
kind of effect. The sticky bits (R35), the outputs (R36) and reset (R58) follow from these. -/

namespace Sys2Proof.Machine

open Sys2Proof

/-! ## The error an operation raises (R241 to R243) -/

/-- An operation that the busy rule holds back raises BusyReject in WAIT, and what it raises otherwise outside it (R242). -/
def busyOr (s : State) (e : Option Event) : Option Event := if s.block.arb.astate = .wait then some .busyReject else e

/-- The error that the operation raises in the state, if any. -/
def raisedBy (s : State) : Instr → Option Event
  | .wrIllegal _ _ => some .illegalAccess
  | .arbStart | .arbClrcmd | .arbClrpat | .arbBudget _ | .arbTries _ => busyOr s none
  | .arbCmd _ => busyOr s (if s.block.arb.cmdLen.toNat = s.cfg.cmdCap then some .overflowCmd else none)
  | .arbPat _ => busyOr s (if s.block.arb.patLen.toNat = s.cfg.patCap then some .overflowPat else none)
  | _ => none

@[simp] theorem raisedBy_arbStart (s : State) : raisedBy s .arbStart = busyOr s none := rfl

@[simp] theorem raisedBy_arbCmd (b : Byte) (s : State) : raisedBy s (.arbCmd b) =
    busyOr s (if s.block.arb.cmdLen.toNat = s.cfg.cmdCap then some .overflowCmd else none) := rfl

@[simp] theorem raisedBy_arbPat (b : Byte) (s : State) : raisedBy s (.arbPat b) =
    busyOr s (if s.block.arb.patLen.toNat = s.cfg.patCap then some .overflowPat else none) := rfl

/-- No read raises (R66). -/
theorem raisedBy_read {i : Instr} (hi : i.isWrite = false) (s : State) : raisedBy s i = none := by
  cases i with
  | arbStart | arbClrcmd | arbClrpat | arbBudget | arbTries | arbCmd | arbPat | wrIllegal => cases hi
  | _ => rfl

theorem busyOr_wait {s : State} (e : Option Event) (h : s.block.arb.astate = .wait) : busyOr s e = some .busyReject := if_pos h

theorem busyOr_free {s : State} (e : Option Event) (h : s.block.arb.astate ≠ .wait) : busyOr s e = e := if_neg h

@[simp] theorem busyOr_none_eq_some (s : State) (k : Event) :
    busyOr s none = some k ↔ s.block.arb.astate = .wait ∧ k = .busyReject := by
  by_cases hw : s.block.arb.astate = .wait
  · simp [busyOr_wait _ hw, hw, eq_comm]
  · simp [busyOr_free _ hw, hw]

@[simp] theorem busyOr_full_eq_some (s : State) (full : Prop) [Decidable full] (e k : Event) :
    busyOr s (if full then some e else none) = some k ↔
      (s.block.arb.astate = .wait ∧ k = .busyReject) ∨ (s.block.arb.astate ≠ .wait ∧ full ∧ k = e) := by
  by_cases hw : s.block.arb.astate = .wait
  · simp [busyOr_wait _ hw, hw, eq_comm]
  · simp [busyOr_free _ hw, hw, eq_comm]

theorem raisedBy_illegalAccess {s : State} {i : Instr} : raisedBy s i = some .illegalAccess ↔ ∃ a d, i = .wrIllegal a d := by
  unfold raisedBy
  cases i <;> simp

theorem raisedBy_overflowCmd {s : State} {i : Instr} : raisedBy s i = some .overflowCmd ↔
    s.block.arb.astate ≠ .wait ∧ s.block.arb.cmdLen.toNat = s.cfg.cmdCap ∧ ∃ b, i = .arbCmd b := by
  unfold raisedBy
  cases i <;> simp

theorem raisedBy_overflowPat {s : State} {i : Instr} : raisedBy s i = some .overflowPat ↔
    s.block.arb.astate ≠ .wait ∧ s.block.arb.patLen.toNat = s.cfg.patCap ∧ ∃ b, i = .arbPat b := by
  unfold raisedBy
  cases i <;> simp

theorem raisedBy_busyReject {s : State} {i : Instr} : raisedBy s i = some .busyReject ↔
    s.block.arb.astate = .wait ∧
      (i = .arbStart ∨ i = .arbClrcmd ∨ i = .arbClrpat ∨ (∃ v, i = .arbBudget v) ∨ (∃ n, i = .arbTries n) ∨
        (∃ b, i = .arbCmd b) ∨ ∃ b, i = .arbPat b) := by
  unfold raisedBy
  cases i <;> simp

/-! ## What an operation can do -/

/-- The kinds of effect an operation that answers a next state can have on the machine. -/
inductive Effect (s : State) : Instr → State → Prop
  /-- A read returns a value and changes nothing (R66). -/
  | reads {i : Instr} (v : Word) (hi : i.isWrite = false) : Effect s i (s.returning v)
  /-- A raise sets one sticky bit and ends the operation (R249). -/
  | raises {i : Instr} {k : Event} (hi : raisedBy s i = some k) : Effect s i (s.raise k)
  | resets : Effect s .ctlReset { s with block := Block.reset }.done
  | clearsErrors : Effect s .ctlClrerr s.clearErrors.done
  /-- CRC.SEED and CRC.BYTE write the CRC unit's register only. -/
  | writesCrc {i : Instr} (v : Word) (hi : (∃ w, i = .crcSeed w) ∨ ∃ b, i = .crcByte b) : Effect s i (s.setCrc v).done
  /-- CTL.DECRST, CTL.CLRCNT and FBUF.SEL write the decoder's elements only. -/
  | writesDecoder {i : Instr} (d : Decoder) (hi : i = .ctlDecrst ∨ i = .ctlClrcnt ∨ ∃ buf idx, i = .fbufSel buf idx) :
      Effect s i (s.setDec d).done
  /-- DEC.BYTE is one step of the decoder (R121). -/
  | decodes {b : Byte} {r : DecStep} (hr : decStep s.cfg b s.block.dec = .ok r) :
      Effect s (.decByte b) (s.decoded { r.dec with decResult := r.result } r.frameDone r.event)
  /-- An arbiter operation that sends nothing and raises nothing writes the arbiter's elements only, or nothing. -/
  | writesArbiter {i : Instr} (a : Arbiter) (hi : unitOf i = .arbiter) (hr : raisedBy s i = none) : Effect s i (s.setArb a).done
  /-- ARB.START outside WAIT sends the command (R175). -/
  | starts (hw : s.block.arb.astate ≠ .wait) : Effect s .arbStart (started s)
  /-- ARB.TICK past the time limit counts an attempt and sends the command again (R185). -/
  | resends {d : Word} (hw : s.block.arb.astate = .wait) : Effect s (.arbTick d)
      (sent (s.setArb { s.block.arb.ticked d with attempts := s.block.arb.attempts + 1 })).done

/-- A read answers the same state with a value (R66). -/
theorem exec_read {i : Instr} (hi : i.isWrite = false) (s : State) : ∃ v, exec i s = .next (s.returning v) := by
  cases i with
  | ctlReset | ctlDecrst | ctlClrerr | ctlClrcnt | crcSeed | crcByte | decByte | fbufSel | arbStart | arbAbort | arbIoerr
  | arbClrcmd | arbClrpat | arbBudget | arbTries | arbCmd | arbPat | arbRx | arbTick | wrIllegal => cases hi
  | _ => exact ⟨_, rfl⟩

/-- An operation under the busy rule that otherwise writes one arbiter. -/
theorem effect_unlessWaiting {i : Instr} {s t : State} {a : Arbiter} (hi : unitOf i = .arbiter) (hr : raisedBy s i = busyOr s none)
    (h : outcome (unlessWaiting s (.ok (s.setArb a).done)) = .next t) : Effect s i t := by
  rcases unlessWaiting_ok (outcome_eq_next.1 h) with ⟨hw, rfl⟩ | ⟨hw, ht⟩
  · exact .raises (by rw [hr, busyOr_wait _ hw])
  · cases ht
    exact .writesArbiter a hi (by rw [hr, busyOr_free _ hw])

/-- An operation that writes one arbiter in WAIT and is ignored elsewhere. -/
theorem effect_onlyWaiting {i : Instr} {s t : State} {a : Arbiter} (hi : unitOf i = .arbiter) (hr : raisedBy s i = none)
    (h : outcome (onlyWaiting s (.ok (s.setArb a).done)) = .next t) : Effect s i t := by
  rcases onlyWaiting_ok (outcome_eq_next.1 h) with ⟨_, ht⟩ | ⟨_, rfl⟩
  · cases ht
    exact .writesArbiter a hi hr
  · exact .writesArbiter s.block.arb hi hr

theorem effect_arbStart {s t : State} (h : exec .arbStart s = .next t) : Effect s .arbStart t := by
  rcases startTransaction_ok (outcome_eq_next.1 h) with ⟨hw, rfl⟩ | ⟨hw, _, rfl⟩
  · exact .raises (busyOr_wait _ hw)
  · exact .starts hw

theorem effect_arbCmd {b : Byte} {s t : State} (h : exec (.arbCmd b) s = .next t) : Effect s (.arbCmd b) t := by
  rcases appendCommand_ok (outcome_eq_next.1 h) with ⟨hw, rfl⟩ | ⟨hw, hc, rfl⟩ | ⟨hw, hc, rfl⟩
  · exact .raises (busyOr_wait _ hw)
  · exact .raises (raisedBy_overflowCmd.2 ⟨hw, hc, b, rfl⟩)
  · exact .writesArbiter _ rfl (by simp [busyOr_free _ hw, hc.ne])

theorem effect_arbPat {b : Byte} {s t : State} (h : exec (.arbPat b) s = .next t) : Effect s (.arbPat b) t := by
  rcases appendPattern_ok (outcome_eq_next.1 h) with ⟨hw, rfl⟩ | ⟨hw, hc, rfl⟩ | ⟨hw, hc, rfl⟩
  · exact .raises (busyOr_wait _ hw)
  · exact .raises (raisedBy_overflowPat.2 ⟨hw, hc, b, rfl⟩)
  · exact .writesArbiter _ rfl (by simp [busyOr_free _ hw, hc.ne])

theorem effect_arbRx {b : Byte} {s t : State} (h : exec (.arbRx b) s = .next t) : Effect s (.arbRx b) t := by
  rcases receiveReply_ok (outcome_eq_next.1 h) with ⟨_, rfl⟩ | ⟨_, _, rfl⟩
  · exact .writesArbiter s.block.arb rfl rfl
  · exact .writesArbiter _ rfl rfl

theorem effect_arbTick {d : Word} {s t : State} (h : exec (.arbTick d) s = .next t) : Effect s (.arbTick d) t := by
  rcases tick_ok (outcome_eq_next.1 h) with ⟨_, rfl⟩ | ⟨_, _, rfl⟩ | ⟨hw, _, _, _, rfl⟩ | ⟨_, _, _, rfl⟩
  · exact .writesArbiter s.block.arb rfl rfl
  · exact .writesArbiter _ rfl rfl
  · exact .resends hw
  · exact .writesArbiter _ rfl rfl

theorem effect_decByte {b : Byte} {s t : State} (h : exec (.decByte b) s = .next t) : Effect s (.decByte b) t := by
  obtain ⟨r, hr, rfl⟩ := consumeByte_ok (outcome_eq_next.1 h)
  exact .decodes hr

/-- The inversion of `exec`: an operation that answers a next state had one of the effects. -/
theorem exec_effect {i : Instr} {s t : State} (h : exec i s = .next t) : Effect s i t := by
  by_cases hi : i.isWrite = false
  · obtain ⟨v, hv⟩ := exec_read hi s
    cases h.symm.trans hv
    exact .reads v hi
  · cases i with
    | ctlReset => cases h; exact .resets
    | ctlClrerr => cases h; exact .clearsErrors
    | ctlDecrst => cases h; exact .writesDecoder _ (.inl rfl)
    | ctlClrcnt => cases h; exact .writesDecoder _ (.inr (.inl rfl))
    | fbufSel buf idx => cases h; exact .writesDecoder _ (.inr (.inr ⟨buf, idx, rfl⟩))
    | crcSeed w => cases h; exact .writesCrc _ (.inl ⟨w, rfl⟩)
    | crcByte b => cases h; exact .writesCrc _ (.inr ⟨b, rfl⟩)
    | decByte => exact effect_decByte h
    | arbStart => exact effect_arbStart h
    | arbCmd => exact effect_arbCmd h
    | arbPat => exact effect_arbPat h
    | arbRx => exact effect_arbRx h
    | arbTick => exact effect_arbTick h
    | arbClrcmd | arbClrpat | arbBudget | arbTries => exact effect_unlessWaiting rfl rfl h
    | arbAbort | arbIoerr => exact effect_onlyWaiting rfl rfl h
    | wrIllegal => cases h; exact .raises rfl
    | _ => exact absurd rfl hi

/-! ## The sticky bits (R35) -/

/-- A recorded event sets exactly the bit of its kind. -/
theorem Sticky.record_bits (k : Event) (f : Sticky) :
    ((f.record k).illop = true ↔ f.illop = true ∨ k = .illegalAccess) ∧
    ((f.record k).cmdovf = true ↔ f.cmdovf = true ∨ k = .overflowCmd) ∧
    ((f.record k).patovf = true ↔ f.patovf = true ∨ k = .overflowPat) ∧
    ((f.record k).busy = true ↔ f.busy = true ∨ k = .busyReject) := by
  cases k <;> simp [Sticky.record]

/-- Every operation but the two that clear records exactly the error it raises in the sticky bits. -/
theorem exec_sticky {i : Instr} {s t : State} (h : exec i s = .next t) (hc : i ≠ .ctlClrerr) (hr : i ≠ .ctlReset) :
    t.block.sticky = (raisedBy s i).elim s.block.sticky fun k => s.block.sticky.record k := by
  cases exec_effect h with
  | raises hi => rw [hi]; rfl
  | resets => exact absurd rfl hr
  | clearsErrors => exact absurd rfl hc
  | reads v hi => rw [raisedBy_read hi]; rfl
  | writesCrc v hi => rcases hi with ⟨w, rfl⟩ | ⟨b, rfl⟩ <;> rfl
  | writesDecoder d hi => rcases hi with rfl | rfl | ⟨buf, idx, rfl⟩ <;> rfl
  | decodes => rfl
  | writesArbiter a hi hr => rw [hr]; rfl
  | starts hw => rw [raisedBy_arbStart, busyOr_free _ hw]; rfl
  | resends => rfl

/-- Settles O54: a clearing operation leaves the reset bits; any other records exactly the error it raises. -/
theorem stickyBitsAreSetAndClearedAsNamed : Obligations.StickyBitsAreSetAndClearedAsNamed := by
  intro i s t h
  refine ⟨?_, fun hc hr => ?_⟩
  · rintro (rfl | rfl) <;> cases h <;> rfl
  · rw [← raisedBy_illegalAccess, ← raisedBy_overflowCmd, ← raisedBy_overflowPat, ← raisedBy_busyReject, exec_sticky h hc hr]
    cases raisedBy s i with
    | none => simp
    | some k => simpa using Sticky.record_bits k s.block.sticky

/-! ## The outputs (R36) -/

/-- An operation appends the command or nothing; the command is sent by ARB.START and by an ARB.TICK that counts an attempt. -/
theorem exec_tx {i : Instr} {s t : State} (h : exec i s = .next t) :
    t.tx = s.tx ∨ (t.tx = s.tx ++ s.block.arb.command ∧
      (i = .arbStart ∨ ∃ d, i = .arbTick d ∧ t.block.arb.attempts = s.block.arb.attempts + 1)) := by
  cases exec_effect h with
  | starts => exact .inr ⟨rfl, .inl rfl⟩
  | resends => exact .inr ⟨rfl, .inr ⟨_, rfl, rfl⟩⟩
  | _ => exact .inl rfl

@[simp] theorem stepTo_frameDone (d : Decoder) : (stepTo d).frameDone = false := rfl
@[simp] theorem dropFrame_frameDone (d : Decoder) : (dropFrame d).frameDone = false := rfl
@[simp] theorem acceptFrame_frameDone (d : Decoder) : (acceptFrame d).frameDone = true := rfl
@[simp] theorem rejectFrame_frameDone (d : Decoder) : (rejectFrame d).frameDone = false := rfl

@[simp] theorem stepHdrlen_frameDone (c : Config) (b : Byte) (d : Decoder) : (stepHdrlen c b d).frameDone = false := by
  unfold stepHdrlen
  split <;> rfl

/-- Before CK4 no byte completes a frame. -/
theorem decStep_frameDone_before_ck4 {c : Config} {b : Byte} {d : Decoder} {r : DecStep} (h : decStep c b d = .ok r)
    (hd : d.dstate ≠ .ck4) : r.frameDone = false := by
  unfold decStep at h
  cases hs : d.dstate with rw [hs] at h
  | sync1 | sync2 | sync3 | ck1 | ck2 | ck3 => cases h; rfl
  | hdrlen => cases h; exact stepHdrlen_frameDone c b d
  | hdr => rcases stepHdr_ok h with ⟨_, rfl⟩ | ⟨_, rfl⟩ <;> rfl
  | pay => rcases stepPay_ok h with ⟨_, rfl⟩ | ⟨_, rfl⟩ <;> rfl
  | ck4 => exact absurd hs hd

/-- In CK4 a byte completes a frame exactly when the two-stage CRC is the assembled trailer (R133). -/
theorem decStep_frameDone_ck4 {c : Config} {b : Byte} {d : Decoder} {r : DecStep} (h : decStep c b d = .ok r)
    (hd : d.dstate = .ck4) :
    r.frameDone = true ↔ crc32Frame d.header d.payload = d.rxCrc ||| (b.zeroExtend 32 <<< 24) := by
  rw [decStep, hd] at h
  obtain ⟨_, _, rfl⟩ := stepCk4_ok h
  change _ ↔ (d.checked b).calcCrc = (d.checked b).rxCrc
  split <;> simp_all

/-- Only DEC.BYTE pulses `frame_done`. -/
theorem exec_frameDone_of_not_decByte {i : Instr} {s t : State} (h : exec i s = .next t) (hi : ∀ b, i ≠ .decByte b) :
    t.out.frameDone = false := by
  cases exec_effect h with
  | decodes => exact absurd rfl (hi _)
  | _ => rfl

/-- A decoder step pulses exactly at a CK4 byte whose two-stage CRC is the assembled trailer. -/
theorem decStep_frameDone {c : Config} {b : Byte} {d : Decoder} {r : DecStep} (h : decStep c b d = .ok r) :
    r.frameDone = true ↔ d.dstate = .ck4 ∧ crc32Frame d.header d.payload = d.rxCrc ||| (b.zeroExtend 32 <<< 24) := by
  by_cases hd : d.dstate = .ck4
  · simp [decStep_frameDone_ck4 h hd, hd]
  · simp [decStep_frameDone_before_ck4 h hd, hd]

theorem exec_frameDone {i : Instr} {s t : State} (h : exec i s = .next t) :
    t.out.frameDone = true ↔ ∃ b, i = .decByte b ∧ s.block.dec.dstate = .ck4 ∧
      crc32Frame s.block.dec.header s.block.dec.payload = s.block.dec.rxCrc ||| (b.zeroExtend 32 <<< 24) := by
  by_cases hi : ∃ b, i = .decByte b
  · obtain ⟨b, rfl⟩ := hi
    obtain ⟨r, hr, rfl⟩ := consumeByte_ok (outcome_eq_next.1 h)
    simpa using decStep_frameDone hr
  · have hne : ∀ b, i ≠ .decByte b := fun b hb => hi ⟨b, hb⟩
    simp [exec_frameDone_of_not_decByte h hne, hne]

theorem arbDone_iff (s : State) : s.arbDone = true ↔ s.block.arb.astate = .success ∨ s.block.arb.astate = .timeout ∨
    s.block.arb.astate = .ioerr ∨ s.block.arb.astate = .aborted := by
  unfold State.arbDone
  cases s.block.arb.astate <;> simp [AState.terminal]

theorem err_iff (s : State) : s.err = true ↔ s.block.sticky.illop = true ∨ s.block.sticky.cmdovf = true ∨
    s.block.sticky.patovf = true ∨ s.block.sticky.busy = true := by
  simp [State.err, Sticky.any, or_assoc]

/-- Settles O55: only the two effects that send append to `tx`, only a CK4 step of the decoder pulses, and the two levels
are read off the state. -/
theorem outputsAreDrivenAsTheSpecSays : Obligations.OutputsAreDrivenAsTheSpecSays := by
  refine ⟨fun i s t h => ⟨?_, exec_frameDone h⟩, fun s => ⟨arbDone_iff s, err_iff s⟩⟩
  rcases exec_tx h with ht | ⟨ht, hi⟩
  · exact ⟨[], by simp [ht], fun hne => absurd rfl hne⟩
  · exact ⟨s.block.arb.command, ht, fun _ => hi⟩

/-! ## Reset (R58) -/

theorem exec_ctlReset (s : State) : exec .ctlReset s = .next (s.wrote State.reset.block) := rfl

/-- Settles O10: CTL.RESET writes the reset block, whose buffers list no cell, so that every byte reads 0x00. -/
theorem resetSetsEveryElementToItsValue : Obligations.ResetSetsEveryElementToItsValue := by
  refine ⟨by decide, exec_ctlReset, ?_⟩
  simp [State.reset, State.resetOf, Block.reset, Decoder.reset, Arbiter.reset, Sticky.reset]

end Sys2Proof.Machine
end

section
/-! SUPPORT. Bus reads (R66): a read word decodes to a read of its address, whatever its data; what a read answers depends on
the block and the parameters, never on the outputs of the operation before it. -/

namespace Sys2Proof.Machine

open Sys2Proof

/-- A word with `W = 0` is a read of its address; the data field is ignored (R87). -/
theorem decode_of_read {t : TWord} (ht : TWord.w t = false) : decode t = decodeRead (TWord.a t) := by
  simp [decode, ht]

/-- Every row that a read word can select, RD.ZERO included, is a read: the direction is the same in every branch. -/
theorem decodeRead_isWrite (a : Byte) : (decodeRead a).isWrite = false := by
  simp only [decodeRead, apply_ite Instr.isWrite]
  simp only [Instr.isWrite, ite_self]

theorem State.returning_eq_readBack (v : Word) (s : State) : s.returning v = s.readBack v := rfl

/-- A read replaces the outputs of the operation before it and depends on none of them (R36, R66). -/
theorem exec_read_withOut {i : Instr} (hi : i.isWrite = false) (o : Outputs) (s : State) :
    exec i { s with out := o } = exec i s := by
  cases i with
  | ctlReset | ctlDecrst | ctlClrerr | ctlClrcnt | crcSeed | crcByte | decByte | fbufSel | arbStart | arbAbort | arbIoerr
  | arbClrcmd | arbClrpat | arbBudget | arbTries | arbCmd | arbPat | arbRx | arbTick | wrIllegal => cases hi
  | _ => rfl

/-- The state a read leaves differs from the one before it in the outputs only, so any read answers alike in both. -/
theorem exec_read_readBack {i : Instr} (hi : i.isWrite = false) (w : Word) (s : State) : exec i (s.readBack w) = exec i s :=
  exec_read_withOut hi _ s

/-- Settles O51: a read answers the same state with a value, and a word of the same address is the same read, which answers
alike in the state before and in the state the first read left. -/
theorem readsHaveNoSideEffects : Obligations.ReadsHaveNoSideEffects := by
  intro t s ht
  have hread := decodeRead_isWrite (TWord.a t)
  obtain ⟨v, hv⟩ := exec_read hread s
  rw [State.returning_eq_readBack] at hv
  refine ⟨v, by rw [decode_of_read ht, hv], fun w t' ht' ha => ?_⟩
  calc exec (decode t') (s.readBack w)
      = exec (decodeRead (TWord.a t)) (s.readBack w) := by rw [decode_of_read ht', ha]
    _ = exec (decodeRead (TWord.a t)) s := exec_read_readBack hread w s
    _ = .next (s.readBack v) := hv

end Sys2Proof.Machine
end

section
/-! SUPPORT. The opcode table and the decoder (R81). A row of the table fixes the direction, the address and some bits of the
data; the address alone says which bits (`fixedBits`), so a word has one candidate row (`rowFor`), and the decoder takes that
row or, on the words of R89 and R90, the fallback row. -/

namespace Sys2Proof.Machine

open Sys2Proof

/-! ## The reserved fields as masks (R82, R85) -/

/-- Masking with the high bits keeps the high field and clears the rest. -/
theorem and_highMask {k n : Nat} (d : BitVec (k + n)) :
    d &&& (BitVec.allOnes k ++ 0#n) = d.extractLsb' n k ++ 0#n := by
  conv_lhs => rw [← BitVec.extractLsb'_append_extractLsb' (x := d)]
  rw [BitVec.and_append, BitVec.and_allOnes, BitVec.and_zero]

theorem and_mask24 (d : Word) : d &&& 0xFFFFFF00 = reservedHigh24 d ++ 0#8 := and_highMask (k := 24) (n := 8) d

theorem and_mask15 (d : Word) : d &&& 0xFFFE0000 = reservedHigh15 d ++ 0#17 := and_highMask (k := 15) (n := 17) d

theorem reservedHigh24_masked (d : Word) : reservedHigh24 (d &&& 0xFFFFFF00) = reservedHigh24 d := by
  rw [and_mask24]
  exact BitVec.extractLsb'_append_eq_left

theorem reservedHigh15_masked (d : Word) : reservedHigh15 (d &&& 0xFFFE0000) = reservedHigh15 d := by
  rw [and_mask15]
  exact BitVec.extractLsb'_append_eq_left

theorem and_mask24_eq_zero {d : Word} (h : reservedHigh24 d = 0) : d &&& 0xFFFFFF00 = 0 := by
  rw [and_mask24, h]
  rfl

theorem and_mask15_eq_zero {d : Word} (h : reservedHigh15 d = 0) : d &&& 0xFFFE0000 = 0 := by
  rw [and_mask15, h]
  rfl

/-! ## Which addresses can be read and written (R38, R63 to R65) -/

/-- The addresses of the RO and RW registers (R38). -/
def readableOffsets : List Byte :=
  [0x00, 0x04, 0x08, 0x0C, 0x14, 0x20, 0x44, 0x48, 0x4C, 0x50, 0x54, 0x58, 0x5C, 0x60, 0x64, 0x68, 0x84, 0x88, 0x8C,
    0xA0, 0xA4, 0xA8]

/-- The addresses of the WO and RW registers (R38). -/
def writableOffsets : List Byte := [0x10, 0x20, 0x24, 0x40, 0x5C, 0x80, 0x88, 0x8C, 0x90, 0x94, 0x98, 0x9C]

theorem registerMap_offsets : ∀ r ∈ registerMap,
    (r.access = .wo ∨ r.offset ∈ readableOffsets) ∧ (r.access = .ro ∨ r.offset ∈ writableOffsets) := by decide

/-- An address has the access right of a register of the map that stands there, or none (R38, R64). -/
theorem accessOf_cases (a : Byte) : accessOf a = none ∨ ∃ r ∈ registerMap, r.offset = a ∧ accessOf a = some r.access := by
  unfold accessOf
  cases h : registerMap.find? (fun r => r.offset == a) with
  | none => exact .inl rfl
  | some r => exact .inr ⟨r, List.mem_of_find?_eq_some h, by simpa using List.find?_some h, rfl⟩

theorem misaligned_or_unmapped {a : Byte} (h : accessOf a = none) : (misaligned a || unmapped a) = true := by
  simp [unmapped, h]

theorem zeroRead_of_unreadable {a : Byte} (ha : a ∉ readableOffsets) : zeroRead a = true := by
  rcases accessOf_cases a with h | ⟨r, hr, rfl, h⟩
  · simp [zeroRead, misaligned_or_unmapped h]
  · simp [zeroRead, h, (registerMap_offsets r hr).1.resolve_right ha]

theorem illegalWrite_of_unwritable {a : Byte} (d : Word) (ha : a ∉ writableOffsets) : illegalWrite a d = true := by
  rcases accessOf_cases a with h | ⟨r, hr, rfl, h⟩
  · simp [illegalWrite, misaligned_or_unmapped h]
  · simp [illegalWrite, readOnly, h, (registerMap_offsets r hr).2.resolve_right ha]

/-! ## The illegal writes by the form of the register (R89) -/

/-- At a byte-form or tries-form register a write is illegal exactly by a reserved bit (R82, R86). -/
theorem illegalWrite_byteForm {a : Byte} (ha : a ∈ byteFormOffsets) (d : Word) :
    illegalWrite a d = (reservedHigh24 d != 0) := by
  have hform : ∀ b ∈ byteFormOffsets, (misaligned b || unmapped b || readOnly b) = false ∧
      (b == 0x5C) = false ∧ (b == 0x10) = false ∧ (b == 0x80) = false := by decide
  obtain ⟨hacc, h5C, h10, h80⟩ := hform a ha
  simp only [illegalWrite, reservedSet, notOneHot, reservedHigh24, hacc, h5C, h10, h80, List.contains_iff_mem.2 ha,
    Bool.false_and, Bool.true_and, Bool.false_or, Bool.or_false]

/-- At FBUF_SEL a write is illegal exactly by a reserved bit (R85). -/
theorem illegalWrite_fbufSel (d : Word) : illegalWrite 0x5C d = (reservedHigh15 d != 0) := by
  have hacc : (misaligned 0x5C || unmapped 0x5C || readOnly 0x5C) = false := by decide
  have hform : (0x5C : Byte) ∉ byteFormOffsets := by decide
  simp_all [illegalWrite, reservedSet, notOneHot, reservedHigh15]

/-- At an address without a reserved field or one-hot values the data does not matter (R83). -/
theorem illegalWrite_wordForm {a : Byte} (hcmd : ¬ (a = 0x10 ∨ a = 0x80)) (hbyte : a ∉ byteFormOffsets) (hbuf : a ≠ 0x5C)
    (d : Word) : illegalWrite a d = (misaligned a || unmapped a || readOnly a) := by
  obtain ⟨h10, h80⟩ := not_or.1 hcmd
  have hmem : byteFormOffsets.contains a = false := by simpa using hbyte
  simp only [illegalWrite, reservedSet, notOneHot, hmem, beq_false_of_ne hbuf, beq_false_of_ne h10, beq_false_of_ne h80,
    Bool.false_and, Bool.or_false]

/-! ## The candidate row of a word -/

/-- The bits of `D` that a write row at the address fixes: all of them at a command register (R84), the reserved field in the
byte, tries and buffer-select forms (R82, R85, R86), none in the 32-bit form (R83). -/
def fixedBits (a : Byte) : Word :=
  if a = 0x10 ∨ a = 0x80 then 0xFFFFFFFF
  else if a ∈ byteFormOffsets then 0xFFFFFF00
  else if a = 0x5C then 0xFFFE0000
  else 0

/-- The mask of a row that can select the word; a read row ignores the data (R87). -/
def rowMask (t : TWord) : TWord := tword true 0xFF (if TWord.w t then fixedBits (TWord.a t) else 0)

/-- The row that would select the word and name the operation: no other row of the table can. -/
def rowFor (t : TWord) (i : Instr) : OpcodeRow := ⟨i.mnemonic, rowMask t, t &&& rowMask t⟩

/-- The words of R89 and R90: an illegal write, or a read that returns 0. -/
def unmatched (t : TWord) : Bool := if TWord.w t then illegalWrite (TWord.a t) (TWord.d t) else zeroRead (TWord.a t)

/-- The operation of the fallback row of the word's direction (R91, R92). -/
def fallback (t : TWord) : Instr := if TWord.w t then .wrIllegal (TWord.a t) (TWord.d t) else .rdZero (TWord.a t)

@[simp] theorem unmatched_write (a : Byte) (d : Word) : unmatched (tword true a d) = illegalWrite a d := by simp [unmatched]
@[simp] theorem unmatched_read (a : Byte) (d : Word) : unmatched (tword false a d) = zeroRead a := by simp [unmatched]
@[simp] theorem fallback_write (a : Byte) (d : Word) : fallback (tword true a d) = .wrIllegal a d := by simp [fallback]
@[simp] theorem fallback_read (a : Byte) (d : Word) : fallback (tword false a d) = .rdZero a := by simp [fallback]
@[simp] theorem rowMask_write (a : Byte) (d : Word) : rowMask (tword true a d) = tword true 0xFF (fixedBits a) := by simp [rowMask]
@[simp] theorem rowMask_read (a : Byte) (d : Word) : rowMask (tword false a d) = tword true 0xFF 0 := by simp [rowMask]

/-- A row's mask keeps the direction and the address of a word, and of its data the bits that the mask has. -/
theorem tword_and_mask (w : Bool) (a : Byte) (d m : Word) : tword w a d &&& tword true 0xFF m = tword w a (d &&& m) := by
  calc tword w a d &&& tword true 0xFF m
      = (BitVec.ofBool w ++ a &&& BitVec.ofBool true ++ BitVec.allOnes 8) ++ (d &&& m) := BitVec.and_append
    _ = tword w a (d &&& m) := by
      rw [BitVec.and_append, BitVec.ofBool_and_ofBool, BitVec.and_allOnes, Bool.and_true, tword]

theorem tword_and_rowMask (w : Bool) (a : Byte) (d : Word) (t : TWord) :
    tword w a d &&& rowMask t = tword w a (d &&& if TWord.w t then fixedBits (TWord.a t) else 0) :=
  tword_and_mask w a d _

theorem rowFor_write (a : Byte) (d : Word) (i : Instr) :
    rowFor (tword true a d) i = ⟨i.mnemonic, tword true 0xFF (fixedBits a), tword true a (d &&& fixedBits a)⟩ := by
  rw [rowFor, rowMask_write, tword_and_mask]

/-- The row of a read word does not depend on the data (R87). -/
theorem rowFor_read (a : Byte) (d : Word) (i : Instr) :
    rowFor (tword false a d) i = ⟨i.mnemonic, tword true 0xFF 0, tword false a 0⟩ := by
  rw [rowFor, rowMask_read, tword_and_mask]
  simp

theorem rowSelects_rowFor (t : TWord) (i : Instr) : rowSelects (rowFor t i) t = true := by
  simp [rowSelects, rowFor]

/-- A mask reads the direction and the address only, and masking keeps both. -/
theorem rowMask_masked (t u : TWord) : rowMask (t &&& rowMask u) = rowMask t := by
  rw [← tword_eta t, tword_and_rowMask]
  simp [rowMask]

/-- A reserved field lies in the fixed bits, and so does the whole of a command. -/
theorem illegalWrite_fixedBits (a : Byte) (d : Word) : illegalWrite a (d &&& fixedBits a) = illegalWrite a d := by
  unfold fixedBits
  split
  · exact congrArg _ BitVec.and_allOnes
  next hcmd =>
    split
    next hbyte => rw [illegalWrite_byteForm hbyte, illegalWrite_byteForm hbyte, reservedHigh24_masked]
    next hbyte =>
      split
      next hbuf => rw [hbuf, illegalWrite_fbufSel, illegalWrite_fbufSel, reservedHigh15_masked]
      next hbuf => rw [illegalWrite_wordForm hcmd hbyte hbuf, illegalWrite_wordForm hcmd hbyte hbuf]

/-- Whether a word is one of R89 and R90 is the same for all operands. -/
theorem unmatched_masked (t : TWord) : unmatched (t &&& rowMask t) = unmatched t := by
  rw [← tword_eta t, tword_and_rowMask]
  cases TWord.w t with
  | true => simp [illegalWrite_fixedBits]
  | false => simp

/-! ## The table against the candidate rows -/

/-- Every row of the table has the mask of its address, and its own word is not one of R89 or R90. -/
theorem opcodeTable_rows : ∀ r ∈ opcodeTable, r.mask = rowMask r.value ∧ unmatched r.value = false := by decide

theorem opcodeTable_values_distinct : (opcodeTable.map OpcodeRow.value).Nodup := by decide

/-- A row of the table that selects a word has the mask and the value of the word's candidate row. -/
theorem row_of_selects {r : OpcodeRow} {t : TWord} (hr : r ∈ opcodeTable) (h : rowSelects r t = true) :
    r.mask = rowMask t ∧ r.value = t &&& rowMask t := by
  have hv : t &&& r.mask = r.value := by simpa [rowSelects] using h
  have hm : r.mask = rowMask r.value := (opcodeTable_rows r hr).1
  have ht : rowMask r.value = rowMask t := by
    conv_lhs => rw [← hv, hm, rowMask_masked]
  exact ⟨hm.trans ht, by rw [← hv, hm, ht]⟩

/-- At most one row selects a word (R81): the rows' values are distinct. -/
theorem row_unique {r r' : OpcodeRow} {t : TWord} (hr : r ∈ opcodeTable) (hr' : r' ∈ opcodeTable)
    (h : rowSelects r t = true) (h' : rowSelects r' t = true) : r = r' :=
  List.inj_on_of_nodup_map opcodeTable_values_distinct hr hr' ((row_of_selects hr h).2.trans (row_of_selects hr' h').2.symm)

/-- No row selects a word of R89 or R90. -/
theorem matched_of_selects {r : OpcodeRow} {t : TWord} (hr : r ∈ opcodeTable) (h : rowSelects r t = true) :
    unmatched t = false := by
  rw [← unmatched_masked, ← (row_of_selects hr h).2]
  exact (opcodeTable_rows r hr).2

/-! ## The decoder takes the candidate row or the fallback row -/

/-- What R81 asks of the operation decoded from a word: its row is in the table, or the word is one of R89 and R90 and the
operation is the fallback row's. -/
def TakesRow (t : TWord) (i : Instr) : Prop := rowFor t i ∈ opcodeTable ∨ (unmatched t = true ∧ i = fallback t)

theorem takesRow_illegal {a : Byte} {d : Word} (h : illegalWrite a d = true) : TakesRow (tword true a d) (.wrIllegal a d) :=
  .inr (by simp [h])

/-- A write whose fixed bits are 0 takes the row of an operation `j` of the same mnemonic, whatever the operands. -/
theorem takesRow_of_operands {a : Byte} {d m : Word} {i : Instr} (j : Instr) (hm : fixedBits a = m) (hd : d &&& m = 0)
    (hj : i.mnemonic = j.mnemonic) (hrow : ⟨j.mnemonic, tword true 0xFF m, tword true a 0⟩ ∈ opcodeTable) :
    TakesRow (tword true a d) i := by
  left
  rw [rowFor_write, hm, hd, hj]
  exact hrow

/-- The byte and tries forms (R82, R86). -/
theorem takesRow_byteForm {a : Byte} (d : Word) (op : Byte → Instr) (ha : a ∈ byteFormOffsets)
    (hop : ∀ b, (op b).mnemonic = (op 0).mnemonic)
    (hrow : ⟨(op 0).mnemonic, tword true 0xFF 0xFFFFFF00, tword true a 0⟩ ∈ opcodeTable) :
    TakesRow (tword true a d) (decodeByteForm op a d) := by
  have hbits : ∀ b ∈ byteFormOffsets, fixedBits b = 0xFFFFFF00 := by decide
  unfold decodeByteForm
  split
  next h => exact takesRow_of_operands (op 0) (hbits a ha) (and_mask24_eq_zero h) (hop _) hrow
  next h => exact takesRow_illegal (by rw [illegalWrite_byteForm ha]; simpa using h)

/-- The buffer-select form (R85). -/
theorem takesRow_fbufSel (d : Word) : TakesRow (tword true 0x5C d) (decodeWrite 0x5C d) := by
  change TakesRow _ (if reservedHigh15 d = 0 then .fbufSel (operandBuf d) (operandIndex d) else .wrIllegal 0x5C d)
  split
  next h => exact takesRow_of_operands (.fbufSel .hdr 0) rfl (and_mask15_eq_zero h) rfl (by decide)
  next h => exact takesRow_illegal (by rw [illegalWrite_fbufSel]; simpa using h)

/-- The 32-bit form (R83). -/
theorem takesRow_wordForm {a : Byte} (d : Word) (op : Word → Instr) (hbits : fixedBits a = 0)
    (hop : ∀ v, (op v).mnemonic = (op 0).mnemonic)
    (hrow : ⟨(op 0).mnemonic, tword true 0xFF 0, tword true a 0⟩ ∈ opcodeTable) : TakesRow (tword true a d) (op d) :=
  takesRow_of_operands (op 0) hbits BitVec.and_zero (hop d) hrow

/-- A command's row fixes the whole of the data (R84). -/
theorem takesRow_command {a : Byte} {d : Word} {i : Instr} (hbits : fixedBits a = 0xFFFFFFFF)
    (hrow : ⟨i.mnemonic, tword true 0xFF 0xFFFFFFFF, tword true a d⟩ ∈ opcodeTable) : TakesRow (tword true a d) i := by
  have hd : d &&& 0xFFFFFFFF = d := BitVec.and_allOnes
  left
  rw [rowFor_write, hbits, hd]
  exact hrow

/-- The one-hot commands of CTRL (R84). -/
theorem takesRow_ctrl (d : Word) : TakesRow (tword true 0x10 d) (decodeCtrl 0x10 d) := by
  by_cases hd : d ∈ ([0x1, 0x2, 0x4, 0x8] : List Word)
  · simp only [List.mem_cons, List.not_mem_nil, or_false] at hd
    rcases hd with rfl | rfl | rfl | rfl <;> exact takesRow_command rfl (by decide)
  · have hi : decodeCtrl 0x10 d = .wrIllegal 0x10 d := by simp_all [decodeCtrl]
    rw [hi]
    exact takesRow_illegal (by simp_all [illegalWrite, notOneHot])

/-- The one-hot commands of ARB_CTRL (R84). -/
theorem takesRow_arbCtrl (d : Word) : TakesRow (tword true 0x80 d) (decodeArbCtrl 0x80 d) := by
  by_cases hd : d ∈ ([0x01, 0x02, 0x04, 0x08, 0x10] : List Word)
  · simp only [List.mem_cons, List.not_mem_nil, or_false] at hd
    rcases hd with rfl | rfl | rfl | rfl | rfl <;> exact takesRow_command rfl (by decide)
  · have hi : decodeArbCtrl 0x80 d = .wrIllegal 0x80 d := by simp_all [decodeArbCtrl]
    rw [hi]
    exact takesRow_illegal (by simp_all [illegalWrite, notOneHot])

/-- Every write, register by register (R88, R89). -/
theorem decodeWrite_takesRow (a : Byte) (d : Word) : TakesRow (tword true a d) (decodeWrite a d) := by
  by_cases ha : a ∈ writableOffsets
  · simp only [writableOffsets, List.mem_cons, List.not_mem_nil, or_false] at ha
    rcases ha with rfl | rfl | rfl | rfl | rfl | rfl | rfl | rfl | rfl | rfl | rfl | rfl
    · exact takesRow_ctrl d
    · exact takesRow_wordForm d .crcSeed rfl (fun _ => rfl) (by decide)
    · exact takesRow_byteForm d .crcByte (by decide) (fun _ => rfl) (by decide)
    · exact takesRow_byteForm d .decByte (by decide) (fun _ => rfl) (by decide)
    · exact takesRow_fbufSel d
    · exact takesRow_arbCtrl d
    · exact takesRow_wordForm d .arbBudget rfl (fun _ => rfl) (by decide)
    · exact takesRow_byteForm d .arbTries (by decide) (fun _ => rfl) (by decide)
    · exact takesRow_byteForm d .arbCmd (by decide) (fun _ => rfl) (by decide)
    · exact takesRow_byteForm d .arbPat (by decide) (fun _ => rfl) (by decide)
    · exact takesRow_byteForm d .arbRx (by decide) (fun _ => rfl) (by decide)
    · exact takesRow_wordForm d .arbTick rfl (fun _ => rfl) (by decide)
  · have hi : decodeWrite a d = .wrIllegal a d := by
      simp only [writableOffsets, List.mem_cons, List.not_mem_nil, or_false, not_or] at ha
      simp only [decodeWrite, ha, if_false]
    rw [hi]
    exact takesRow_illegal (illegalWrite_of_unwritable d ha)

/-- Every read: a readable register has its row, and any other address reads as 0 (R88, R90). -/
theorem decodeRead_takesRow (a : Byte) (d : Word) : TakesRow (tword false a d) (decodeRead a) := by
  by_cases ha : a ∈ readableOffsets
  · have hrows : ∀ b ∈ readableOffsets, ⟨(decodeRead b).mnemonic, tword true 0xFF 0, tword false b 0⟩ ∈ opcodeTable := by decide
    exact .inl (by rw [rowFor_read]; exact hrows a ha)
  · have hi : decodeRead a = .rdZero a := by simp_all [decodeRead, readableOffsets]
    exact .inr (by simp [hi, zeroRead_of_unreadable ha])

theorem decode_takesRow (t : TWord) : TakesRow t (decode t) := by
  rw [← tword_eta t, decode]
  cases TWord.w t with
  | true => simpa using decodeWrite_takesRow (TWord.a t) (TWord.d t)
  | false => simpa using decodeRead_takesRow (TWord.a t) (TWord.d t)

/-! ## The statements of R81, R89 and R90 -/

/-- The words that no row of the table selects are those of R89 and R90. -/
theorem unmatched_iff (t : TWord) : unmatched t = true ↔ ∀ r ∈ opcodeTable, rowSelects r t = false := by
  constructor
  · intro hu r hr
    by_contra h
    simp [matched_of_selects hr (by simpa using h)] at hu
  · intro hnone
    rcases decode_takesRow t with hrow | ⟨hu, -⟩
    · simpa [rowSelects_rowFor] using hnone _ hrow
    · exact hu

theorem decode_of_unmatched {t : TWord} (hu : unmatched t = true) : decode t = fallback t := by
  rcases decode_takesRow t with hrow | ⟨-, hi⟩
  · simp [matched_of_selects hrow (rowSelects_rowFor t _)] at hu
  · exact hi

/-- The row that selects a word is its candidate row, which names the decoded operation. -/
theorem mnemonic_of_selects {r : OpcodeRow} {t : TWord} (hr : r ∈ opcodeTable) (h : rowSelects r t = true) :
    (decode t).mnemonic = r.mnemonic := by
  rcases decode_takesRow t with hrow | ⟨hu, -⟩
  · rw [row_unique hr hrow h (rowSelects_rowFor t _), rowFor]
  · simp [matched_of_selects hr h] at hu

/-- Settles O3: the decoded operation's row is the only row of the table that can select the word, and it is missing exactly
on the words of R89 and R90. -/
theorem decodeSelectsTheRowOfTheOpcodeTable : Obligations.DecodeSelectsTheRowOfTheOpcodeTable := fun t =>
  ⟨fun _ hr _ hr' h h' => row_unique hr hr' h h', fun _ hr h => mnemonic_of_selects hr h,
    fun hnone => decode_of_unmatched ((unmatched_iff t).2 hnone)⟩

theorem exec_wrIllegal (a : Byte) (d : Word) (s : State) :
    exec (.wrIllegal a d) s = .next (s.raised { s.block.sticky with illop := true } .illegalAccess) := rfl

theorem exec_rdZero (a : Byte) (s : State) : exec (.rdZero a) s = .next (s.readBack 0) := rfl

/-- Settles O4: on a write word the unmatched words are the five cases of R89, and WR.ILLEGAL raises IllegalAccess. -/
theorem illegalWritesAreExactlyTheFiveCases : Obligations.IllegalWritesAreExactlyTheFiveCases := by
  intro a d
  rw [← unmatched_write a d, ← fallback_write a d]
  exact ⟨unmatched_iff _, fun hu s => ⟨decode_of_unmatched hu, by rw [fallback_write]; exact exec_wrIllegal a d s⟩⟩

/-- Settles O5: on a read word the unmatched words are those of R90, whatever the data, and RD.ZERO returns 0. -/
theorem readsThatMatchNoRowReturnZero : Obligations.ReadsThatMatchNoRowReturnZero := by
  intro a d
  rw [← unmatched_read a d, ← fallback_read a d]
  exact ⟨unmatched_iff _, fun hu s => ⟨decode_of_unmatched hu, by rw [fallback_read]; exact exec_rdZero a s⟩⟩

end Sys2Proof.Machine
end

section
/-! SUPPORT. The words of one register (R82, R83, R87): each write or read of an address decodes by the branch of that address
alone. The CRC unit (R100 to R106): one byte folded in is eight bit-serial shifts, and what each of its operations does. -/

namespace Sys2Proof.Machine

open Sys2Proof

/-! ## The words of one register -/

theorem decode_tword_write (a : Byte) (d : Word) : decode (tword true a d) = decodeWrite a d := by simp [decode]

theorem decode_tword_read (a : Byte) (d : Word) : decode (tword false a d) = decodeRead a := by simp [decode]

theorem decodeByteForm_byteData (op : Byte → Instr) (a b : Byte) : decodeByteForm op a (byteData b) = op b := by
  rw [decodeByteForm, if_pos (reservedHigh24_byteData b), operandByte_byteData]

theorem decodeByteForm_reserved (op : Byte → Instr) (a : Byte) {d : Word} (hd : reservedHigh24 d ≠ 0) :
    decodeByteForm op a d = .wrIllegal a d := if_neg hd

/-- An address whose writes decode by the byte form is a byte-form register of that operation (R82, R86, R241). -/
theorem byteOperation_of_decodeByteForm {a : Byte} {op : Byte → Instr} (h : ∀ d, decodeWrite a d = decodeByteForm op a d) :
    ByteOperation a op := by
  refine ⟨⟨fun b => ?_, fun d hd => ?_⟩, fun d _ => exec_wrIllegal a d⟩
  · calc decode (tword true a (byteData b))
        = decodeByteForm op a (byteData b) := by rw [decode_tword_write, h]
      _ = op b := decodeByteForm_byteData op a b
  · rw [decode_tword_write, h, decodeByteForm_reserved op a hd]

/-! ## The CRC unit -/

theorem crcShifts_eq_iterate (n : Nat) (t : Word) : crcShifts n t = crcShift^[n] t := by
  induction n generalizing t with
  | zero => rfl
  | succ n ih => exact ih (crcShift t)

/-- One shift, with the polynomial written out (R9, R100). -/
theorem crcShift_eq : crcShift = fun t : Word => if t.getLsbD 0 = true then (t >>> 1) ^^^ 0xEDB88320 else t >>> 1 := rfl

/-- The fold of one byte is the bit-serial one of R100. -/
theorem crc32Byte_eq_iterate (c : Word) (b : Byte) : crc32Byte c b =
    (fun t : Word => if t.getLsbD 0 = true then (t >>> 1) ^^^ 0xEDB88320 else t >>> 1)^[8] (c ^^^ b.zeroExtend 32) := by
  rw [crc32Byte, crcShifts_eq_iterate, crcShift_eq]

theorem exec_crcSeed (v : Word) (s : State) : exec (.crcSeed v) s = .next (s.wrote { s.block with crc := v }) := rfl

theorem exec_crcByte (b : Byte) (s : State) :
    exec (.crcByte b) s = .next (s.wrote { s.block with crc := crc32Byte s.block.crc b }) := rfl

theorem exec_rdCrcVal (s : State) : exec .rdCrcVal s = .next (s.readBack s.block.crc) := rfl

/-- Settles O16: the words decode by the branches of 0x20 and 0x24; the byte that CRC.BYTE folds goes through the eight
shifts of R100. -/
theorem crcOperationsLoadFoldAndReturn : Obligations.CrcOperationsLoadFoldAndReturn := by
  have hseed : WordWriteAt 0x20 .crcSeed := fun d => decode_tword_write 0x20 d
  have hbyte : ByteOperation 0x24 .crcByte := byteOperation_of_decodeByteForm fun _ => rfl
  have hread : ReadAt 0x20 .rdCrcVal := fun d => decode_tword_read 0x20 d
  refine ⟨⟨hseed, hbyte, hread⟩, fun s => ⟨fun v => exec_crcSeed v s, fun b => ?_, exec_rdCrcVal s⟩⟩
  rw [exec_crcByte, crc32Byte_eq_iterate]

end Sys2Proof.Machine
end

section
/-! SUPPORT. One byte in each state of the frame decoder (R121 to R133): the decoder that the step leaves, as an update of the
one before it, with the conditions on its counters over the natural numbers. -/

namespace Sys2Proof.Machine

open Sys2Proof

/-! ## DEC.BYTE by the step of the decoder (R121) -/

theorem exec_decByte_of_step {b : Byte} {s : State} {r : DecStep} (h : decStep s.cfg b s.block.dec = .ok r) :
    exec (.decByte b) s = .next (s.decoded { r.dec with decResult := r.result } r.frameDone r.event) :=
  outcome_eq_next.2 (consumeByte_of_step h)

/-- A step that completes nothing and records nothing leaves the result 0 and no pulse. -/
theorem exec_decByte_of_stepTo {b : Byte} {s : State} {d : Decoder} (h : decStep s.cfg b s.block.dec = .ok (stepTo d)) :
    exec (.decByte b) s = .next (s.decoded { d with decResult := 0 } false none) :=
  exec_decByte_of_step h

/-- A structural restart (R122, R244). -/
theorem exec_decByte_of_dropFrame {b : Byte} {s : State} (h : decStep s.cfg b s.block.dec = .ok (dropFrame s.block.dec)) :
    exec (.decByte b) s =
      .next (s.decoded { s.block.dec with dstate := .sync1, read := 0, dropCnt := s.block.dec.dropCnt + 1, decResult := 0 }
        false (some .frameDrop)) :=
  exec_decByte_of_step h

/-! ## Arithmetic of the counters (R25) -/

theorem toNat_succ {r : Word} (h : r.toNat + 1 < 2 ^ 32) : (r + 1).toNat = r.toNat + 1 := BitVec.toNat_add_of_lt h

/-- A byte count that has not wrapped reaches a bound exactly when its number does. -/
theorem succ_eq_iff_toNat {r x : Word} (h : r.toNat + 1 < 2 ^ 32) : r + 1 = x ↔ r.toNat + 1 = x.toNat := by
  rw [← BitVec.toNat_inj, toNat_succ h]

/-- The total of the two lengths is exact in 32 bits. -/
theorem toNat_frameLength (n : Byte) (m : BitVec 16) :
    (n.zeroExtend 32 + m.zeroExtend 32).toNat = n.toNat + m.toNat := by
  have hn : (n.zeroExtend 32).toNat = n.toNat := BitVec.toNat_setWidth_of_le (by decide)
  have hm : (m.zeroExtend 32).toNat = m.toNat := BitVec.toNat_setWidth_of_le (by decide)
  rw [BitVec.toNat_add_of_lt (by omega), hn, hm]

/-- The payload index is the number of bytes after the header (R129). -/
theorem toNat_payloadIndex {r : Word} {n : Byte} (h : n.toNat ≤ r.toNat) :
    (r - n.zeroExtend 32).toNat = r.toNat - n.toNat := by
  have hn : (n.zeroExtend 32).toNat = n.toNat := BitVec.toNat_setWidth_of_le (by decide)
  rw [BitVec.toNat_sub_of_le (by rw [BitVec.le_def, hn]; exact h), hn]

/-- The upper part of a concatenation, shifted over the lower part. -/
theorem zeroExtend_append {m n : Nat} (k : Nat) (x : BitVec m) (y : BitVec n) :
    (x ++ y).zeroExtend k = y.zeroExtend k ||| (x.zeroExtend k <<< n) := by
  apply BitVec.eq_of_getLsbD_eq
  intro i hi
  simp only [BitVec.getLsbD_setWidth, BitVec.getLsbD_append, BitVec.getLsbD_or, BitVec.getLsbD_shiftLeft, hi,
    show i - n < k by omega, decide_true, Bool.true_and]
  by_cases hn : i < n
  · simp [hn]
  · simp [hn, BitVec.getLsbD_of_ge y i (Nat.le_of_not_lt hn)]

/-- The little-endian field is its two bytes, the second in the upper half (R13). -/
theorem le16_eq_append (m : Memory) (o : Nat) : le16 m o = Memory.read m (o + 1) ++ Memory.read m o := by
  rw [le16, ← zeroExtend_append 16]
  exact BitVec.setWidth_eq _

/-! ## The preamble and the header length (R123 to R126) -/

theorem decStep_sync1 (c : Config) (b : Byte) {d : Decoder} (hd : d.dstate = .sync1) :
    decStep c b d = .ok (stepTo { d with dstate := if b = 0xAA then .sync2 else .sync1 }) := by
  have hstep : decStep c b d = .ok (stepSync1 b d) := by rw [decStep, hd]
  rw [hstep, stepSync1]
  by_cases hb : b = 0xAA
  · rw [if_pos hb, if_pos hb]
  · rw [if_neg hb, if_neg hb, ← hd]

theorem decStep_sync2 (c : Config) (b : Byte) {d : Decoder} (hd : d.dstate = .sync2) :
    decStep c b d = .ok (stepTo (if b = 0x44 then { d with dstate := .sync3 } else d.restart)) := by
  rw [decStep, hd, stepSync2]

theorem decStep_sync3 (c : Config) (b : Byte) {d : Decoder} (hd : d.dstate = .sync3) :
    decStep c b d = .ok (stepTo (if b = 0xB5 then { d with dstate := .hdrlen } else d.restart)) := by
  rw [decStep, hd, stepSync3]

theorem decStep_hdrlen_short {c : Config} {b : Byte} {d : Decoder} (hd : d.dstate = .hdrlen) (hb : b.toNat < c.hdrMinLen) :
    decStep c b d = .ok (dropFrame d) := by
  rw [decStep, hd]
  exact congrArg _ (if_pos hb)

theorem decStep_hdrlen_accepted {c : Config} {b : Byte} {d : Decoder} (hd : d.dstate = .hdrlen) (hb : c.hdrMinLen ≤ b.toNat) :
    decStep c b d =
      .ok (stepTo { d with hdr := seedHeader b d.hdr, hdrLen := b, read := 4, frameValid := false, dstate := .hdr }) := by
  rw [decStep, hd]
  exact congrArg _ (if_neg (by omega))

/-! ## The header and the payload (R127 to R129) -/

theorem decStep_hdr_full {c : Config} (b : Byte) {d : Decoder} (hd : d.dstate = .hdr) (hr : d.read.toNat = c.hdrCap) :
    decStep c b d = .ok (dropFrame d) := by
  rw [decStep, hd]
  exact if_pos hr

theorem decStep_hdr_store {c : Config} (b : Byte) {d : Decoder} (hc : c.hdrCap ≤ 255) (hd : d.dstate = .hdr)
    (hr : d.read.toNat < c.hdrCap) :
    decStep c b d = .ok (stepTo (if d.read.toNat + 1 = d.hdrLen.toNat
      then headerDone c { d with hdr := Memory.write d.hdr d.read.toNat b, read := d.read + 1 }
      else { d with hdr := Memory.write d.hdr d.read.toNat b, read := d.read + 1 })) := by
  have hn : (d.hdrLen.zeroExtend 32).toNat = d.hdrLen.toNat := BitVec.toNat_setWidth_of_le (by decide)
  have hw : d.read.toNat + 1 < 2 ^ 32 := by omega
  have hstep : decStep c b d = stepHdr c b d := by rw [decStep, hd]
  simp only [hstep, stepHdr, if_neg hr.ne, storeByte_inside .hdr b d.hdr hr, succ_eq_iff_toNat hw, hn]

theorem decStep_pay_full {c : Config} (b : Byte) {d : Decoder} (hd : d.dstate = .pay)
    (hr : d.read.toNat = d.hdrLen.toNat + c.payCap) : decStep c b d = .ok (dropFrame d) := by
  rw [decStep, hd]
  exact if_pos (by rw [toNat_payloadIndex (by omega)]; omega)

theorem decStep_pay_store {c : Config} (b : Byte) {d : Decoder} (hc : c.payCap ≤ 65535) (hd : d.dstate = .pay)
    (hl : d.hdrLen.toNat ≤ d.read.toNat) (hr : d.read.toNat < d.hdrLen.toNat + c.payCap) :
    decStep c b d = .ok (stepTo { d with
      pay := Memory.write d.pay (d.read.toNat - d.hdrLen.toNat) b, read := d.read + 1,
      dstate := if d.read.toNat + 1 = d.hdrLen.toNat + d.msgLen.toNat then .ck1 else .pay }) := by
  have hi : d.read.toNat - d.hdrLen.toNat < c.payCap := by omega
  have hw : d.read.toNat + 1 < 2 ^ 32 := by omega
  have hstep : decStep c b d = stepPay c b d := by rw [decStep, hd]
  simp only [hstep, stepPay, toNat_payloadIndex hl, if_neg hi.ne, storeByte_inside .pay b d.pay hi, succ_eq_iff_toNat hw,
    toNat_frameLength]
  by_cases hlast : d.read.toNat + 1 = d.hdrLen.toNat + d.msgLen.toNat
  · rw [if_pos hlast, if_pos hlast]
  · rw [if_neg hlast, if_neg hlast, ← hd]

/-! ## The trailer and the check (R130 to R133) -/

theorem decStep_ck1 (c : Config) (b : Byte) {d : Decoder} (hd : d.dstate = .ck1) :
    decStep c b d = .ok (stepTo { d with rxCrc := b.zeroExtend 32, dstate := .ck2 }) := by
  rw [decStep, hd, stepCk1]

theorem decStep_ck2 (c : Config) (b : Byte) {d : Decoder} (hd : d.dstate = .ck2) :
    decStep c b d = .ok (stepTo { d with rxCrc := d.rxCrc ||| (b.zeroExtend 32 <<< 8), dstate := .ck3 }) := by
  rw [decStep, hd, stepCk2]

theorem decStep_ck3 (c : Config) (b : Byte) {d : Decoder} (hd : d.dstate = .ck3) :
    decStep c b d = .ok (stepTo { d with rxCrc := d.rxCrc ||| (b.zeroExtend 32 <<< 16), dstate := .ck4 }) := by
  rw [decStep, hd, stepCk3]

/-- In CK4 the two-stage CRC of the buffers is compared with the assembled trailer: a match. -/
theorem decStep_ck4_match {c : Config} {b : Byte} {d : Decoder} {rx : Word} (hd : d.dstate = .ck4)
    (hh : d.hdrLen.toNat ≤ c.hdrCap) (hp : d.msgLen.toNat ≤ c.payCap) (hrx : rx = d.rxCrc ||| (b.zeroExtend 32 <<< 24))
    (hcrc : crc32Frame d.header d.payload = rx) :
    decStep c b d = .ok (acceptFrame { d with rxCrc := rx, calcCrc := rx }) := by
  have hchecked : d.checked b = { d with rxCrc := rx, calcCrc := rx } := by
    rw [Decoder.checked, ← hrx, ← hcrc]
    rfl
  calc decStep c b d
      = stepCk4 c b d := by rw [decStep, hd]
    _ = .ok (acceptFrame (d.checked b)) := (stepCk4_inside b hh hp).trans (congrArg _ (if_pos (hcrc.trans hrx)))
    _ = _ := by rw [hchecked]

/-- In CK4, a trailer that differs. -/
theorem decStep_ck4_mismatch {c : Config} {b : Byte} {d : Decoder} (hd : d.dstate = .ck4) (hh : d.hdrLen.toNat ≤ c.hdrCap)
    (hp : d.msgLen.toNat ≤ c.payCap) (hcrc : crc32Frame d.header d.payload ≠ d.rxCrc ||| (b.zeroExtend 32 <<< 24)) :
    decStep c b d = .ok (rejectFrame (d.checked b)) := by
  rw [decStep, hd]
  exact (stepCk4_inside b hh hp).trans (congrArg _ (if_neg hcrc))

/-! ## The header buffer seeded at an accepted length (R126) -/

theorem seedHeader_wf {cap : Nat} {m : Memory} (b : Byte) (hm : Memory.wf cap m = true) (hc : 4 ≤ cap) :
    Memory.wf cap (seedHeader b m) = true :=
  Memory.write_wf b (Memory.write_wf _ (Memory.write_wf _ (Memory.write_wf _ hm (by omega)) (by omega)) (by omega)) (by omega)

/-- The seeded bytes are the preamble and the length; every other byte stays. -/
theorem read_seedHeader {cap : Nat} {m : Memory} (b : Byte) (hm : Memory.wf cap m = true) (hc : 4 ≤ cap) :
    Memory.read (seedHeader b m) 0 = 0xAA ∧ Memory.read (seedHeader b m) 1 = 0x44 ∧
    Memory.read (seedHeader b m) 2 = 0xB5 ∧ Memory.read (seedHeader b m) 3 = b ∧
    ∀ k, 4 ≤ k → Memory.read (seedHeader b m) k = Memory.read m k := by
  have h0 := Memory.write_wf 0xAA hm (show 0 < cap by omega)
  have h1 := Memory.write_wf 0x44 h0 (show 1 < cap by omega)
  have h2 := Memory.write_wf 0xB5 h1 (show 2 < cap by omega)
  have hread (k : Nat) : Memory.read (seedHeader b m) k =
      if k = 3 then b else if k = 2 then 0xB5 else if k = 1 then 0x44 else if k = 0 then 0xAA else Memory.read m k := by
    rw [seedHeader, Memory.read_write _ 0 _ _ _ (Memory.wf_from h2), Memory.read_write _ 0 _ _ _ (Memory.wf_from h1),
      Memory.read_write _ 0 _ _ _ (Memory.wf_from h0), Memory.read_write _ 0 _ _ _ (Memory.wf_from hm)]
  refine ⟨hread 0, hread 1, hread 2, hread 3, fun k hk => ?_⟩
  rw [hread, if_neg (by omega), if_neg (by omega), if_neg (by omega), if_neg (by omega)]

end Sys2Proof.Machine
end

section
/-! SUPPORT. DEC.BYTE in each state of the frame decoder: the exact next state of the machine (R123 to R133). -/

namespace Sys2Proof.Machine

open Sys2Proof

/-- Settles O20: the step of each of the four states, the seeded header buffer read byte by byte. -/
theorem preambleAndLengthSteps : Obligations.PreambleAndLengthSteps := by
  refine ⟨byteOperation_of_decodeByteForm fun _ => rfl, fun s b =>
    ⟨fun hd => ?_, fun hd => ?_, fun hd => ?_, fun hd hb => ?_, fun hd hb hcfg hm => ?_⟩⟩
  · exact exec_decByte_of_stepTo (decStep_sync1 _ b hd)
  · rw [exec_decByte_of_stepTo (decStep_sync2 _ b hd)]
    split <;> rfl
  · rw [exec_decByte_of_stepTo (decStep_sync3 _ b hd)]
    split <;> rfl
  · exact exec_decByte_of_dropFrame (decStep_hdrlen_short hd hb)
  · have hcap : 4 ≤ s.cfg.hdrCap := by
      obtain ⟨⟨hmin, -⟩, -, ⟨hid, -⟩, -⟩ := hcfg
      rw [Config.hdrMinLen] at hmin
      omega
    exact ⟨seedHeader b s.block.dec.hdr, exec_decByte_of_stepTo (decStep_hdrlen_accepted hd hb), seedHeader_wf b hm hcap,
      read_seedHeader b hm hcap⟩

/-- Settles O21: the written buffer is `Memory.write` at `read`, and the length field is read from it. -/
theorem headerStepStoresAndCompletes : Obligations.HeaderStepStoresAndCompletes := by
  intro s b hcfg hd hm
  obtain ⟨⟨-, hcap⟩, -⟩ := hcfg
  refine ⟨fun hr => exec_decByte_of_dropFrame (decStep_hdr_full b hd hr), fun hr => ?_⟩
  have hstep := decStep_hdr_store b hcap hd hr
  refine ⟨Memory.write s.block.dec.hdr s.block.dec.read.toNat b, _, Memory.write_wf b hm hr,
    Memory.read_write_same _ 0 _ _ (Memory.wf_from hm), fun k hk => Memory.read_write_other _ _ k _ hk, rfl,
    fun hne => ?_, fun heq => ?_⟩
  · rw [if_neg hne] at hstep
    exact exec_decByte_of_stepTo hstep
  · rw [if_pos heq, headerDone, le16_eq_append] at hstep
    rw [exec_decByte_of_stepTo hstep]
    simp only [BitVec.toNat_eq, BitVec.ofNat_eq_ofNat, BitVec.toNat_ofNat, Nat.zero_mod]

/-- Settles O22: the written buffer is `Memory.write` at `read - hdr_len`, which has not wrapped. -/
theorem payloadStepStoresAndCompletes : Obligations.PayloadStepStoresAndCompletes := by
  intro s b hcfg hd hm hl
  obtain ⟨-, ⟨-, hcap⟩, -⟩ := hcfg
  refine ⟨fun hr => exec_decByte_of_dropFrame (decStep_pay_full b hd hr), fun hr => ?_⟩
  exact ⟨Memory.write s.block.dec.pay (s.block.dec.read.toNat - s.block.dec.hdrLen.toNat) b, Memory.write_wf b hm (by omega),
    Memory.read_write_same _ 0 _ _ (Memory.wf_from hm), fun k hk => Memory.read_write_other _ _ k _ hk,
    exec_decByte_of_stepTo (decStep_pay_store b hcap hd hl hr)⟩

/-- Settles O23: each of the three states puts its byte at its place. -/
theorem trailerStepsAssembleTheReceivedCrc : Obligations.TrailerStepsAssembleTheReceivedCrc := fun _ b =>
  ⟨fun hd => exec_decByte_of_stepTo (decStep_ck1 _ b hd), fun hd => exec_decByte_of_stepTo (decStep_ck2 _ b hd),
    fun hd => exec_decByte_of_stepTo (decStep_ck3 _ b hd)⟩

/-- Settles O24: the checked decoder compares the two-stage CRC of its buffers with the assembled trailer. -/
theorem checkStepAcceptsExactlyAMatchingTrailer : Obligations.CheckStepAcceptsExactlyAMatchingTrailer := by
  intro s b rx hd hh hp hrx
  refine ⟨fun heq => exec_decByte_of_step (decStep_ck4_match hd hh hp hrx heq), fun hne => ?_⟩
  subst hrx
  exact exec_decByte_of_step (decStep_ck4_mismatch hd hh hp hne)

end Sys2Proof.Machine
end

section
/-! SUPPORT. Whole frames (R134 to R136). `Takes` is a run of decoder steps that complete and record nothing; from SYNC1 a
legal header and payload are such a run, which ends in CK1 at the decoder `Decoder.framed`. The trailer decides there. -/

namespace Sys2Proof.Machine

open Sys2Proof

/-! ## A span written byte by byte -/

/-- The bytes written one after the other from an index on. -/
def Memory.writeSpan : Memory → Nat → List Byte → Memory
  | m, _, [] => m
  | m, i, b :: bs => Memory.writeSpan (Memory.write m i b) (i + 1) bs

/-- A span written behind another one extends it. -/
theorem Memory.bytes_writeSpan : ∀ (bs : List Byte) (m : Memory) (i : Nat), Memory.wfFrom 0 m = true →
    Memory.bytes (Memory.writeSpan m i bs) (i + bs.length) = Memory.bytes m i ++ bs
  | [], m, i, _ => (List.append_nil _).symm
  | b :: bs, m, i, hm => by
    calc Memory.bytes (Memory.writeSpan (Memory.write m i b) (i + 1) bs) (i + (bs.length + 1))
        = Memory.bytes (Memory.writeSpan (Memory.write m i b) (i + 1) bs) (i + 1 + bs.length) := by
          rw [Nat.add_assoc, Nat.add_comm 1]
      _ = Memory.bytes (Memory.write m i b) (i + 1) ++ bs :=
          Memory.bytes_writeSpan bs _ (i + 1) (Memory.write_wfFrom m 0 i b hm (Nat.zero_le i))
      _ = Memory.bytes m i ++ b :: bs := by
          rw [Memory.bytes_write_succ m 0 i b hm, List.append_assoc, List.singleton_append]

/-- A span written from index 0 is read back. -/
theorem Memory.bytes_writeSpan_zero {m : Memory} (bs : List Byte) (hm : Memory.wfFrom 0 m = true) :
    Memory.bytes (Memory.writeSpan m 0 bs) bs.length = bs := by
  simpa using Memory.bytes_writeSpan bs m 0 hm

/-- Inside a span the buffer reads as the span. -/
theorem Memory.read_of_bytes {m : Memory} {bs : List Byte} (h : Memory.bytes m bs.length = bs) {i : Nat} (hi : i < bs.length) :
    Memory.read m i = bs.getD i 0 := by
  have hget := Memory.bytes_getElem m bs.length i (by simpa using hi)
  simp only [h] at hget
  rw [List.getD_eq_getElem _ _ hi, hget]

/-- A little-endian field inside a span is the field of the span (R13). -/
theorem le16_of_bytes {m : Memory} {bs : List Byte} (h : Memory.bytes m bs.length = bs) {o : Nat} (ho : o + 2 ≤ bs.length) :
    le16 m o = listLe16 bs o := by
  rw [le16_eq_append, Memory.read_of_bytes h (show o + 1 < _ by omega), Memory.read_of_bytes h (show o < _ by omega),
    listLe16]

/-! ## Runs of bytes -/

theorem feed_cons_of_next {b : Byte} {s t : State} (h : exec (.decByte b) s = .next t) (bs : List Byte) :
    feed (b :: bs) s = feed bs t := by
  simp only [feed, List.map_cons, runOps, h]

theorem feed_singleton (b : Byte) (s : State) : feed [b] s = exec (.decByte b) s := by
  simp only [feed, List.map_cons, List.map_nil, runOps]
  cases exec (.decByte b) s <;> rfl

/-- Bytes fed after others start in the state that those leave. -/
theorem runOps_append : ∀ (is js : List Instr) {s t : State}, runOps is s = .next t → runOps (is ++ js) s = runOps js t
  | [], js, s, t, h => by cases h; rfl
  | i :: is, js, s, t, h => by
    simp only [List.cons_append, runOps] at h ⊢
    split at h
    · next u hu => exact runOps_append is js h
    · cases h
    · cases h

theorem feed_append_of_next {as : List Byte} {s t : State} (h : feed as s = .next t) (bs : List Byte) :
    feed (as ++ bs) s = feed bs t := by
  rw [feed, List.map_append]
  exact runOps_append _ _ h

/-- The decoder takes the bytes one after the other; no byte completes a frame or records an event, so each leaves the
result 0 (R121). -/
inductive Takes (c : Config) : Decoder → List Byte → Decoder → Prop
  | nil (d : Decoder) : Takes c d [] d
  | cons {b : Byte} {bs : List Byte} {d d' e : Decoder} (hstep : decStep c b d = .ok (stepTo d'))
      (hrest : Takes c { d' with decResult := 0 } bs e) : Takes c d (b :: bs) e

/-- A single byte. -/
theorem Takes.single {c : Config} {b : Byte} {d d' : Decoder} (hstep : decStep c b d = .ok (stepTo d')) :
    Takes c d [b] { d' with decResult := 0 } :=
  .cons hstep (.nil _)

theorem Takes.append {c : Config} {d e f : Decoder} {as bs : List Byte} (h : Takes c d as e) (h' : Takes c e bs f) :
    Takes c d (as ++ bs) f := by
  induction h with
  | nil => exact h'
  | cons hstep _ ih => exact .cons hstep (ih h')

/-- A part from the front is taken too. -/
theorem Takes.take {c : Config} {d e : Decoder} {bs : List Byte} (h : Takes c d bs e) (k : Nat) :
    ∃ e', Takes c d (bs.take k) e' := by
  induction h generalizing k with
  | nil d => exact ⟨d, by simpa using Takes.nil d⟩
  | @cons b bs d d' e hstep _ ih =>
    cases k with
    | zero => exact ⟨d, .nil d⟩
    | succ k =>
      obtain ⟨e', he⟩ := ih k
      exact ⟨e', .cons hstep he⟩

/-- On the machine: after at least one such byte only the decoder has changed, the result is 0 and nothing pulses. -/
theorem Takes.feed_eq {c : Config} {d e : Decoder} {bs : List Byte} (h : Takes c d bs e) :
    ∀ s : State, s.cfg = c → s.block.dec = d → bs ≠ [] →
      feed bs s = .next (s.decoded e false none) ∧ e.decResult = 0 := by
  induction h with
  | nil => exact fun _ _ _ hne => absurd rfl hne
  | @cons b bs d d' e hstep hrest ih =>
    rintro s rfl rfl -
    rw [feed_cons_of_next (exec_decByte_of_stepTo hstep)]
    cases hrest with
    | nil => exact ⟨rfl, rfl⟩
    | cons hstep' hrest' => exact ih (s.decoded _ false none) rfl rfl (List.cons_ne_nil _ _)

/-! ## The header and the payload of a frame -/

/-- A legal header is the preamble, its length and at least the two fields (R151). -/
theorem FrameBody.header_eq {c : Config} {h p : List Byte} (hcfg : c.Legal) (hbody : FrameBody c h p) :
    ∃ n rest, h = 0xAA :: 0x44 :: 0xB5 :: n :: rest ∧ n.toNat = h.length ∧ rest ≠ [] := by
  obtain ⟨hmin, -, hpre, hlen, -⟩ := hbody
  obtain ⟨-, -, ⟨hid, -⟩, -⟩ := hcfg
  rw [Config.hdrMinLen] at hmin
  match h, hmin with
  | x0 :: x1 :: x2 :: n :: rest, hmin =>
    obtain ⟨rfl, rfl, rfl⟩ : x0 = 0xAA ∧ x1 = 0x44 ∧ x2 = 0xB5 := by simpa using hpre
    refine ⟨n, rest, rfl, hlen, ?_⟩
    rintro rfl
    simp only [List.length_cons, List.length_nil] at hmin
    omega

/-- The preamble and an accepted length are taken from SYNC1 (R123 to R126). -/
theorem takes_preamble {c : Config} {n : Byte} {d : Decoder} (hd : d.dstate = .sync1) (hn : c.hdrMinLen ≤ n.toNat) :
    Takes c d [0xAA, 0x44, 0xB5, n]
      { d with hdr := seedHeader n d.hdr, hdrLen := n, read := 4, frameValid := false, dstate := .hdr, decResult := 0 } :=
  .cons (decStep_sync1 c 0xAA hd) <| .cons (decStep_sync2 c 0x44 rfl) <| .cons (decStep_sync3 c 0xB5 rfl) <|
    .single (decStep_hdrlen_accepted rfl hn)

/-- The rest of a header that fits is taken in HDR, and the last byte completes it (R127, R128). -/
theorem takes_header {c : Config} (hc : c.hdrCap ≤ 255) : ∀ (rest : List Byte) (d : Decoder),
    d.dstate = .hdr → rest ≠ [] → d.read.toNat + rest.length = d.hdrLen.toNat → d.hdrLen.toNat ≤ c.hdrCap →
    Takes c d rest (headerDone c { d with
      hdr := Memory.writeSpan d.hdr d.read.toNat rest, read := d.hdrLen.zeroExtend 32, decResult := 0 })
  | [], _, _, hne, _, _ => absurd rfl hne
  | [b], d, hd, _, hlen, hcap => by
    have hlast : d.read.toNat + 1 = d.hdrLen.toNat := hlen
    have hstep := decStep_hdr_store b hc hd (show d.read.toNat < c.hdrCap by omega)
    have hread : d.read + 1 = d.hdrLen.zeroExtend 32 := by
      rw [succ_eq_iff_toNat (by omega), hlast]
      exact (BitVec.toNat_setWidth_of_le (by decide)).symm
    rw [if_pos hlast, hread] at hstep
    exact .single hstep
  | b :: b' :: rest, d, hd, _, hlen, hcap => by
    simp only [List.length_cons] at hlen
    have hstep := decStep_hdr_store b hc hd (show d.read.toNat < c.hdrCap by omega)
    have hread := toNat_succ (r := d.read) (by omega)
    have hrest := takes_header hc (b' :: rest)
      { d with hdr := Memory.write d.hdr d.read.toNat b, read := d.read + 1, decResult := 0 } hd (List.cons_ne_nil _ _)
      (by simp only [hread, List.length_cons]; omega) hcap
    rw [if_neg (by omega)] at hstep
    simp only [hread] at hrest
    exact .cons hstep hrest

/-- The rest of a payload that fits is taken in PAY, and the last byte completes it (R129). -/
theorem takes_payload {c : Config} (hc : c.payCap ≤ 65535) : ∀ (rest : List Byte) (d : Decoder) (i : Nat),
    d.dstate = .pay → rest ≠ [] → d.read.toNat = d.hdrLen.toNat + i → i + rest.length = d.msgLen.toNat →
    d.msgLen.toNat ≤ c.payCap → Takes c d rest { d with
      pay := Memory.writeSpan d.pay i rest, read := d.hdrLen.zeroExtend 32 + d.msgLen.zeroExtend 32,
      dstate := .ck1, decResult := 0 }
  | [], _, _, _, hne, _, _, _ => absurd rfl hne
  | [b], d, i, hd, _, hi, hlen, hcap => by
    simp only [List.length_singleton] at hlen
    have hstep := decStep_pay_store b hc hd (by omega) (by omega)
    have hread : d.read + 1 = d.hdrLen.zeroExtend 32 + d.msgLen.zeroExtend 32 := by
      rw [succ_eq_iff_toNat (by omega), toNat_frameLength]
      omega
    rw [if_pos (by omega), hread, hi, Nat.add_sub_cancel_left] at hstep
    exact .single hstep
  | b :: b' :: rest, d, i, hd, _, hi, hlen, hcap => by
    simp only [List.length_cons] at hlen
    have hstep := decStep_pay_store b hc hd (by omega) (by omega)
    have hread := toNat_succ (r := d.read) (by omega)
    rw [if_neg (by omega), hi, Nat.add_sub_cancel_left] at hstep
    exact .cons hstep (takes_payload hc (b' :: rest)
      { d with pay := Memory.write d.pay i b, read := d.read + 1, dstate := .pay, decResult := 0 } (i + 1) rfl
      (List.cons_ne_nil _ _) (by simp only [hread]; omega) (by simp only [List.length_cons]; omega) hcap)

/-- The decoder after a header and a payload, waiting for the trailer. -/
def Decoder.framed (d : Decoder) (h p : List Byte) : Decoder :=
  { d with
    dstate := .ck1
    read := (BitVec.ofNat 8 h.length).zeroExtend 32 + (BitVec.ofNat 16 p.length).zeroExtend 32
    hdrLen := BitVec.ofNat 8 h.length
    msgLen := BitVec.ofNat 16 p.length
    frameValid := false
    decResult := 0
    hdr := Memory.writeSpan d.hdr 0 h
    pay := Memory.writeSpan d.pay 0 p }

/-- The decoder at a complete header, before the length field decides where it goes (R128). -/
def Decoder.headed (d : Decoder) (h : List Byte) : Decoder :=
  { d with
    dstate := .hdr
    read := (BitVec.ofNat 8 h.length).zeroExtend 32
    hdrLen := BitVec.ofNat 8 h.length
    frameValid := false
    decResult := 0
    hdr := Memory.writeSpan d.hdr 0 h }

/-- From SYNC1 a legal header is taken whole. -/
theorem takes_frameHeader {c : Config} {h p : List Byte} {d : Decoder} (hcfg : c.Legal) (hbody : FrameBody c h p)
    (hd : d.dstate = .sync1) : Takes c d h (headerDone c (d.headed h)) := by
  obtain ⟨n, rest, hh, hn, hne⟩ := FrameBody.header_eq hcfg hbody
  obtain ⟨hmin, hcap, -⟩ := hbody
  obtain ⟨⟨-, h255⟩, -⟩ := hcfg
  have hlen : BitVec.ofNat 8 h.length = n := by rw [← hn, BitVec.ofNat_toNat, BitVec.setWidth_eq]
  have hrest : 4 + rest.length = n.toNat := by rw [hn, hh]; exact Nat.add_comm _ _
  rw [← hn] at hmin hcap
  have hheader := (takes_preamble hd hmin).append (takes_header h255 rest _ rfl hne hrest hcap)
  rw [Decoder.headed, hlen, hh]
  exact hheader

/-- What the length field of a taken header says (R128). -/
theorem headerDone_headed {c : Config} {h p : List Byte} {d : Decoder} (hbody : FrameBody c h p)
    (hm : Memory.wf c.hdrCap d.hdr = true) : headerDone c (d.headed h) =
      { d.headed h with
        msgLen := BitVec.ofNat 16 p.length
        dstate := if BitVec.ofNat 16 p.length = 0 then .ck1 else .pay } := by
  obtain ⟨hmin, -, -, -, -, hlen⟩ := hbody
  have hfield : c.msglenOffset + 2 ≤ h.length := le_trans (Nat.add_le_add_right (le_max_right _ _) 2) hmin
  have hmsg : le16 (d.headed h).hdr c.msglenOffset = BitVec.ofNat 16 p.length := by
    rw [← hlen, BitVec.ofNat_toNat, BitVec.setWidth_eq]
    exact le16_of_bytes (Memory.bytes_writeSpan_zero h (Memory.wf_from hm)) hfield
  rw [headerDone, hmsg]

section Lengths

variable {c : Config} {h p : List Byte} {d : Decoder} (hcfg : c.Legal) (hbody : FrameBody c h p)
include hcfg hbody

theorem framed_hdrLen : (d.framed h p).hdrLen.toNat = h.length := by
  obtain ⟨⟨-, h255⟩, -⟩ := hcfg
  obtain ⟨-, hcap, -⟩ := hbody
  exact (BitVec.toNat_ofNat _ _).trans (Nat.mod_eq_of_lt (by omega))

theorem framed_msgLen : (d.framed h p).msgLen.toNat = p.length := by
  obtain ⟨-, ⟨-, h65535⟩, -⟩ := hcfg
  obtain ⟨-, -, -, -, hcap, -⟩ := hbody
  exact (BitVec.toNat_ofNat _ _).trans (Nat.mod_eq_of_lt (by omega))

/-- The read count is the total length (R25). -/
theorem framed_read : (d.framed h p).read.toNat = h.length + p.length := by
  rw [← framed_hdrLen (d := d) hcfg hbody, ← framed_msgLen (d := d) hcfg hbody]
  exact toNat_frameLength _ _

theorem framed_header (hm : Memory.wf c.hdrCap d.hdr = true) : (d.framed h p).header = h := by
  rw [Decoder.header, framed_hdrLen hcfg hbody]
  exact Memory.bytes_writeSpan_zero h (Memory.wf_from hm)

theorem framed_payload (hm : Memory.wf c.payCap d.pay = true) : (d.framed h p).payload = p := by
  rw [Decoder.payload, framed_msgLen hcfg hbody]
  exact Memory.bytes_writeSpan_zero p (Memory.wf_from hm)

end Lengths

/-- From SYNC1 a legal header and payload are taken whole; without a payload the header leads straight to CK1. -/
theorem takes_frameBody {c : Config} {h p : List Byte} {d : Decoder} (hcfg : c.Legal) (hbody : FrameBody c h p)
    (hd : d.dstate = .sync1) (hm : Memory.wf c.hdrCap d.hdr = true) : Takes c d (h ++ p) (d.framed h p) := by
  have hheader := takes_frameHeader hcfg hbody hd
  have hmsg := framed_msgLen (d := d) hcfg hbody
  have hread : ((d.headed h).read).toNat = (d.headed h).hdrLen.toNat := BitVec.toNat_setWidth_of_le (by decide)
  have ⟨_, ⟨_, h65535⟩, _⟩ := hcfg
  have ⟨_, _, _, _, hcap, _⟩ := hbody
  rw [headerDone_headed hbody hm] at hheader
  by_cases hp : p = []
  · subst hp
    rw [List.append_nil]
    simpa [Decoder.framed, Decoder.headed, Memory.writeSpan] using hheader
  · have hpay : BitVec.ofNat 16 p.length ≠ 0 := fun h0 => by
      have hzero : p.length = 0 := hmsg.symm.trans (congrArg BitVec.toNat h0)
      exact hp (List.eq_nil_of_length_eq_zero hzero)
    rw [if_neg hpay] at hheader
    exact hheader.append (takes_payload h65535 p _ 0 rfl hp hread ((Nat.zero_add _).trans hmsg.symm) (hmsg.trans_le hcap))

/-! ## The trailer -/

/-- Any three bytes are taken in CK1 to CK3, the first into the low byte (R130 to R132). -/
theorem takes_trailer {c : Config} {d : Decoder} (b0 b1 b2 : Byte) (hd : d.dstate = .ck1) :
    Takes c d [b0, b1, b2]
      { d with
        dstate := .ck4
        rxCrc := b0.zeroExtend 32 ||| (b1.zeroExtend 32 <<< 8) ||| (b2.zeroExtend 32 <<< 16)
        decResult := 0 } :=
  .cons (decStep_ck1 c b0 hd) <| .cons (decStep_ck2 c b1 rfl) <| .single (decStep_ck3 c b2 rfl)

/-- The assembled trailer is its bytes, the first one lowest (R130 to R133). -/
theorem assembled_trailer (b0 b1 b2 b3 : Byte) :
    b3 ++ b2 ++ b1 ++ b0 =
      b0.zeroExtend 32 ||| (b1.zeroExtend 32 <<< 8) ||| (b2.zeroExtend 32 <<< 16) ||| (b3.zeroExtend 32 <<< 24) := by
  calc b3 ++ b2 ++ b1 ++ b0
      = (b3 ++ b2 ++ b1 ++ b0).zeroExtend 32 := (BitVec.setWidth_eq _).symm
    _ = _ := by simp only [zeroExtend_append, BitVec.shiftLeft_or_distrib, ← BitVec.shiftLeft_add, BitVec.or_assoc]

/-- The decoder before the last trailer byte. -/
def Decoder.awaitingLast (d : Decoder) (h p : List Byte) (b0 b1 b2 : Byte) : Decoder :=
  { d.framed h p with
    dstate := .ck4
    rxCrc := b0.zeroExtend 32 ||| (b1.zeroExtend 32 <<< 8) ||| (b2.zeroExtend 32 <<< 16) }

/-- All bytes of a frame but the last are taken. -/
theorem takes_frame_init {c : Config} {h p : List Byte} {d : Decoder} (b0 b1 b2 : Byte) (hcfg : c.Legal)
    (hbody : FrameBody c h p) (hd : d.dstate = .sync1) (hm : Memory.wf c.hdrCap d.hdr = true) :
    Takes c d (h ++ p ++ [b0, b1, b2]) (d.awaitingLast h p b0 b1 b2) :=
  (takes_frameBody hcfg hbody hd hm).append (takes_trailer b0 b1 b2 rfl)

theorem frame_init_append_last (h p : List Byte) (b0 b1 b2 b3 : Byte) :
    h ++ p ++ [b0, b1, b2, b3] = h ++ p ++ [b0, b1, b2] ++ [b3] := by simp

/-- A proper non-empty part from the front of a framed body with any trailer returns 0 and does not pulse (R134). -/
theorem feed_frame_part {s : State} {h p : List Byte} (b0 b1 b2 b3 : Byte) (hs : s.Inv) (hd : s.block.dec.dstate = .sync1)
    (hbody : FrameBody s.cfg h p) {k : Nat} (hpos : 0 < k) (hk : k < h.length + p.length + 4) :
    ∃ u, feed ((h ++ p ++ [b0, b1, b2, b3]).take k) s = .next u ∧
      u.block.dec.decResult = 0 ∧ u.out.frameDone = false := by
  obtain ⟨hcfg, ⟨-, -, hhdr, -⟩, -⟩ := hs
  have hinit : k ≤ (h ++ p ++ [b0, b1, b2]).length := by
    simp only [List.length_append, List.length_cons, List.length_nil]
    omega
  obtain ⟨e, he⟩ := (takes_frame_init b0 b1 b2 hcfg hbody hd hhdr).take k
  have hne : (h ++ p ++ [b0, b1, b2]).take k ≠ [] := List.ne_nil_of_length_pos (by rw [List.length_take]; omega)
  obtain ⟨hfeed, hres⟩ := he.feed_eq s rfl rfl hne
  rw [frame_init_append_last, List.take_append_of_le_length hinit]
  exact ⟨_, hfeed, hres, rfl⟩

/-- A framed body with any trailer is decided by its last byte, in CK4, with the body in the buffers (R133 to R136). -/
theorem feed_frame_eq {s : State} {h p : List Byte} (b0 b1 b2 b3 : Byte) (hs : s.Inv) (hd : s.block.dec.dstate = .sync1)
    (hbody : FrameBody s.cfg h p) :
    feed (h ++ p ++ [b0, b1, b2, b3]) s =
      exec (.decByte b3) (s.decoded (s.block.dec.awaitingLast h p b0 b1 b2) false none) := by
  obtain ⟨hcfg, ⟨-, -, hhdr, -⟩, -⟩ := hs
  have hne : h ++ p ++ [b0, b1, b2] ≠ [] := List.append_ne_nil_of_right_ne_nil _ (List.cons_ne_nil _ _)
  obtain ⟨hfeed, -⟩ := (takes_frame_init b0 b1 b2 hcfg hbody hd hhdr).feed_eq s rfl rfl hne
  rw [frame_init_append_last, feed_append_of_next hfeed, feed_singleton]

/-- Settles O27: every byte but the last is taken silently; the last one compares in CK4, where the buffers hold the body. -/
theorem framedBytesAreDecidedAtTheLastTrailerByte : Obligations.FramedBytesAreDecidedAtTheLastTrailerByte := by
  intro s h p b0 b1 b2 b3 hs hd hbody
  refine ⟨fun k hpos hk => feed_frame_part b0 b1 b2 b3 hs hd hbody hpos hk, ?_⟩
  rw [feed_frame_eq b0 b1 b2 b3 hs hd hbody]
  obtain ⟨hcfg, ⟨-, -, hhdr, hpay⟩, -⟩ := hs
  have hH := framed_header (d := s.block.dec) hcfg hbody hhdr
  have hP := framed_payload (d := s.block.dec) hcfg hbody hpay
  have hHlen := framed_hdrLen (d := s.block.dec) hcfg hbody
  have hPlen := framed_msgLen (d := s.block.dec) hcfg hbody
  have hread := framed_read (d := s.block.dec) hcfg hbody
  obtain ⟨-, hhcap, -, -, hpcap, -⟩ := hbody
  obtain ⟨hmatch, hmismatch⟩ := checkStepAcceptsExactlyAMatchingTrailer
    (s.decoded (s.block.dec.awaitingLast h p b0 b1 b2) false none) b3 _ rfl (hHlen.trans_le hhcap)
    (hPlen.trans_le hpcap) (assembled_trailer b0 b1 b2 b3)
  have hcrc : crc32Block (crc32Block 0 (s.block.dec.awaitingLast h p b0 b1 b2).header)
      (s.block.dec.awaitingLast h p b0 b1 b2).payload = crc32Frame h p := congrArg₂ crc32Frame hH hP
  by_cases heq : b3 ++ b2 ++ b1 ++ b0 = crc32Frame h p
  · exact ⟨_, hmatch (hcrc.trans heq.symm), rfl, rfl, hH, hP, hHlen, hPlen, rfl, heq, rfl, rfl, rfl, rfl, rfl, rfl,
      fun _ => ⟨hread, rfl, rfl, rfl⟩, fun hne => absurd heq hne⟩
  · exact ⟨_, hmismatch fun h' => heq (h'.symm.trans hcrc), rfl, rfl, hH, hP, hHlen, hPlen, rfl, hcrc, rfl, rfl, rfl, rfl,
      rfl, rfl, fun h' => absurd h' heq, fun _ => ⟨rfl, rfl, rfl, rfl⟩⟩

end Sys2Proof.Machine
end

section
/-! SUPPORT. The retained frame (R150): which operations leave what a completed frame has put into the decoder. -/

namespace Sys2Proof.Machine

open Sys2Proof

/-- The elements of the decoder that hold a completed frame (R25, R150). -/
def Decoder.frameElements (d : Decoder) : Bool × Memory × Memory × Byte × BitVec 16 × Word × Word :=
  (d.frameValid, d.hdr, d.pay, d.hdrLen, d.msgLen, d.rxCrc, d.calcCrc)

/-- A positive result is the acceptance of a frame, in CK4 (R133, R135). -/
theorem decStep_positive_result {c : Config} {b : Byte} {d : Decoder} {r : DecStep} (h : decStep c b d = .ok r)
    (hr : r.result ≠ 0) : r = acceptFrame (d.checked b) := by
  rw [decStep] at h
  cases hd : d.dstate with rw [hd] at h
  | sync1 | sync2 | sync3 | ck1 | ck2 | ck3 => cases h; exact absurd rfl hr
  | hdrlen =>
    cases h
    rw [stepHdrlen] at hr
    split at hr <;> exact absurd rfl hr
  | hdr => rcases stepHdr_ok h with ⟨_, rfl⟩ | ⟨_, rfl⟩ <;> exact absurd rfl hr
  | pay => rcases stepPay_ok h with ⟨_, rfl⟩ | ⟨_, rfl⟩ <;> exact absurd rfl hr
  | ck4 =>
    obtain ⟨-, -, rfl⟩ := stepCk4_ok h
    by_cases hcrc : (d.checked b).calcCrc = (d.checked b).rxCrc
    · exact if_pos hcrc
    · rw [if_neg hcrc] at hr
      exact absurd rfl hr

/-- Before a header no byte but an accepted header length touches the frame, and the decoder stays before a header. -/
theorem decStep_keeps_frame {c : Config} {b : Byte} {d : Decoder} {r : DecStep} (h : decStep c b d = .ok r)
    (hd : d.dstate.beforeHeader = true) (hb : d.dstate = .hdrlen → b.toNat < c.hdrMinLen) :
    r.dec.frameElements = d.frameElements ∧ r.dec.dstate.beforeHeader = true := by
  cases hs : d.dstate with
  | sync1 =>
    cases (decStep_sync1 c b hs).symm.trans h
    refine ⟨rfl, ?_⟩
    change (if b = 0xAA then DState.sync2 else .sync1).beforeHeader = true
    split <;> rfl
  | sync2 =>
    cases (decStep_sync2 c b hs).symm.trans h
    split <;> exact ⟨rfl, rfl⟩
  | sync3 =>
    cases (decStep_sync3 c b hs).symm.trans h
    split <;> exact ⟨rfl, rfl⟩
  | hdrlen =>
    cases (decStep_hdrlen_short hs (hb hs)).symm.trans h
    exact ⟨rfl, rfl⟩
  | hdr | pay | ck1 | ck2 | ck3 | ck4 => rw [hs] at hd; cases hd

/-- No operation changes the parameters of the build (R220; log entry 5). -/
theorem exec_cfg {i : Instr} {s t : State} (h : exec i s = .next t) : t.cfg = s.cfg := by
  cases exec_effect h <;> rfl

/-- The operations that write no element of the decoder (R20). -/
theorem exec_dec_eq {i : Instr} {s t : State} (h : exec i s = .next t) (hreset : i ≠ .ctlReset) (hdecrst : i ≠ .ctlDecrst)
    (hcnt : i ≠ .ctlClrcnt) (hsel : ∀ buf idx, i ≠ .fbufSel buf idx) (hbyte : ∀ b, i ≠ .decByte b) :
    t.block.dec = s.block.dec := by
  cases exec_effect h with
  | resets => exact absurd rfl hreset
  | writesDecoder d hi =>
    rcases hi with rfl | rfl | ⟨buf, idx, rfl⟩
    · exact absurd rfl hdecrst
    · exact absurd rfl hcnt
    · exact absurd rfl (hsel buf idx)
  | decodes => exact absurd rfl (hbyte _)
  | _ => rfl

/-- Before a header every operation but CTL.RESET, CTL.DECRST and an accepted header length keeps the frame. -/
theorem exec_keeps_frame {i : Instr} {s t : State} (h : exec i s = .next t) (hd : s.block.dec.dstate.beforeHeader = true)
    (hreset : i ≠ .ctlReset) (hdecrst : i ≠ .ctlDecrst)
    (hlen : ∀ b, i = .decByte b → s.block.dec.dstate = .hdrlen → b.toNat < s.cfg.hdrMinLen) :
    t.block.dec.frameElements = s.block.dec.frameElements ∧ t.block.dec.dstate.beforeHeader = true := by
  cases i with
  | decByte b =>
    obtain ⟨r, hr, rfl⟩ := consumeByte_ok (outcome_eq_next.1 h)
    exact decStep_keeps_frame hr hd (hlen b rfl)
  | ctlClrcnt | fbufSel => cases h; exact ⟨rfl, hd⟩
  | ctlReset => exact absurd rfl hreset
  | ctlDecrst => exact absurd rfl hdecrst
  | _ =>
    rw [exec_dec_eq h (by simp) (by simp) (by simp) (by simp) (by simp)]
    exact ⟨rfl, hd⟩

/-- DEC_MSGINFO reads the retained elements only (R141). -/
theorem msgInfo_of_frameElements (c : Config) {d e : Decoder} (h : e.frameElements = d.frameElements) :
    msgInfo c e = msgInfo c d := by
  simp only [Decoder.frameElements, Prod.mk.injEq] at h
  obtain ⟨-, hhdr, -, -, hmsg, -⟩ := h
  rw [msgInfo, msgInfo, hhdr, hmsg]

/-- Settles O32: only an accepted frame gives a positive result; from there the frame is kept, operation by operation. -/
theorem completedFrameIsKeptUntilOverwritten : Obligations.CompletedFrameIsKeptUntilOverwritten := by
  refine ⟨fun b s t h hres => ?_, fun i s t hvalid hd h hreset hdecrst hlen => ?_, fun b s t hd hb h => ?_,
    fun s => ⟨_, rfl, rfl, rfl, rfl⟩⟩
  · obtain ⟨r, hr, rfl⟩ := consumeByte_ok (outcome_eq_next.1 h)
    rw [decStep_positive_result hr hres]
    exact ⟨rfl, rfl⟩
  · obtain ⟨hframe, hbefore⟩ := exec_keeps_frame h hd hreset hdecrst hlen
    have hinfo : exec .rdDecMsginfo t = .next (t.readBack (msgInfo s.cfg s.block.dec)) := by
      rw [← msgInfo_of_frameElements s.cfg hframe, ← exec_cfg h]
      rfl
    simp only [Decoder.frameElements, Prod.mk.injEq] at hframe
    obtain ⟨hv, hhdr, hpay, hhlen, hmlen, hrx, hcalc⟩ := hframe
    exact ⟨hv.trans hvalid, hbefore, hhdr, hpay, hhlen, hmlen, hrx, hcalc, hinfo⟩
  · cases (exec_decByte_of_stepTo (decStep_hdrlen_accepted hd hb)).symm.trans h
    rfl

end Sys2Proof.Machine
end

section
/-! SUPPORT. The decoder's registers (R139 to R149): each is a sum of fields, and a field reads back at its own place. -/

namespace Sys2Proof.Machine

open Sys2Proof

/-! ## Register fields (R11) -/

theorem getLsbD_field {w : Nat} (v : BitVec w) (pos i : Nat) :
    (field v pos).getLsbD i = (decide (i < 32) && !decide (i < pos) && v.getLsbD (i - pos)) := by
  rw [field, BitVec.getLsbD_shiftLeft, BitVec.getLsbD_setWidth]
  by_cases hi : i < 32
  · simp [hi, show i - pos < 32 by omega]
  · simp [hi]

/-- A field inside the word reads back as its value. -/
theorem extractLsb'_field_same {w : Nat} (v : BitVec w) (pos : Nat) (h : pos + w ≤ 32) :
    (field v pos).extractLsb' pos w = v := by
  apply BitVec.eq_of_getLsbD_eq
  intro i hi
  rw [BitVec.getLsbD_extractLsb', getLsbD_field]
  simp [hi, show pos + i < 32 by omega]

/-- A field is 0 at every place beside it. -/
theorem extractLsb'_field_other {w : Nat} (v : BitVec w) (pos lo n : Nat) (h : lo + n ≤ pos ∨ pos + w ≤ lo) :
    (field v pos).extractLsb' lo n = 0 := by
  apply BitVec.eq_of_getLsbD_eq
  intro i hi
  rw [BitVec.getLsbD_extractLsb', getLsbD_field]
  rcases h with h | h
  · simp [show lo + i < pos by omega]
  · simp [BitVec.getLsbD_of_ge v (lo + i - pos) (by omega)]

theorem bitWord_shiftLeft (b : Bool) (pos : Nat) : bitWord b <<< pos = field (BitVec.ofBool b) pos := rfl

/-- A field of one bit. -/
theorem getLsbD_of_extractLsb'_one {w : Nat} {v : BitVec w} {i : Nat} {b : Bool} (h : v.extractLsb' i 1 = BitVec.ofBool b) :
    v.getLsbD i = b := by
  simpa [BitVec.getLsbD_extractLsb'] using congrArg (fun x => x.getLsbD 0) h

/-- The low byte of a little-endian field is the byte at the offset, the high byte the one after it (R13). -/
theorem le16_bytes (m : Memory) (o : Nat) :
    (le16 m o).extractLsb' 0 8 = Memory.read m o ∧ (le16 m o).extractLsb' 8 8 = Memory.read m (o + 1) := by
  rw [le16_eq_append]
  exact ⟨BitVec.extractLsb'_append_eq_right, BitVec.extractLsb'_append_eq_left⟩

/-! ## The decoder's registers -/

/-- The fields of DEC_STATUS (R47). -/
theorem status_fields (d : Decoder) :
    d.status.extractLsb' 0 4 = d.dstate.code ∧ d.status.extractLsb' 4 1 = BitVec.ofBool d.frameValid ∧
    d.status.extractLsb' 5 3 = 0 ∧ d.status.extractLsb' 8 8 = d.hdrLen ∧ d.status.extractLsb' 16 16 = 0 := by
  rw [Decoder.status, bitWord_shiftLeft]
  simp [BitVec.extractLsb'_or, extractLsb'_field_same, extractLsb'_field_other]

/-- The fields of DEC_MSGINFO (R49). -/
theorem msgInfo_fields (c : Config) (d : Decoder) :
    (msgInfo c d).extractLsb' 0 16 = le16 d.hdr c.msgidOffset ∧ (msgInfo c d).extractLsb' 16 16 = d.msgLen := by
  rw [msgInfo]
  simp [BitVec.extractLsb'_or, extractLsb'_field_same, extractLsb'_field_other]

/-- Settles O25: each register reads its element, the two packed ones field by field. -/
theorem decoderReadsReportTheirElements : Obligations.DecoderReadsReportTheirElements := by
  refine ⟨⟨decode_tword_read 0x44, decode_tword_read 0x48, decode_tword_read 0x4C, decode_tword_read 0x50,
    decode_tword_read 0x54, decode_tword_read 0x58, decode_tword_read 0x64, decode_tword_read 0x68⟩,
    fun s => ⟨rfl, rfl, rfl, rfl, rfl, rfl, ?_, ?_⟩⟩
  · obtain ⟨hstate, hvalid, hlow, hlen, hhigh⟩ := status_fields s.block.dec
    exact ⟨s.block.dec.status, rfl, hstate, getLsbD_of_extractLsb'_one hvalid, hlow, hlen, hhigh⟩
  · obtain ⟨hid, hlen⟩ := msgInfo_fields s.cfg s.block.dec
    obtain ⟨hbyte0, hbyte1⟩ := le16_bytes s.block.dec.hdr s.cfg.msgidOffset
    rw [← hid, BitVec.extractLsb'_extractLsb'_of_le (by decide)] at hbyte0 hbyte1
    exact ⟨msgInfo s.cfg s.block.dec, rfl, hbyte0, hbyte1, hlen⟩

/-! ## The buffer select (R145 to R147) -/

/-- The operand of FBUF.SEL is the index and above it the buffer bit (R85). -/
theorem fbufData_eq_fields (buf : BufSel) (idx : BitVec 16) :
    fbufData buf idx = field (BitVec.ofBool buf.bit) 16 ||| field idx 0 := by
  rw [fbufData, field, field, BitVec.shiftLeft_zero]

theorem fbufData_fields (buf : BufSel) (idx : BitVec 16) :
    (fbufData buf idx).extractLsb' 0 16 = idx ∧ (fbufData buf idx).extractLsb' 16 1 = BitVec.ofBool buf.bit ∧
    (fbufData buf idx).extractLsb' 17 15 = 0 := by
  rw [fbufData_eq_fields]
  simp [BitVec.extractLsb'_or, extractLsb'_field_same, extractLsb'_field_other]

theorem decodeWrite_fbufSel (d : Word) : decodeWrite 0x5C d =
    if reservedHigh15 d = 0 then .fbufSel (operandBuf d) (operandIndex d) else .wrIllegal 0x5C d := rfl

/-- The operand form of the buffer select decodes to its buffer and index (R85). -/
theorem decode_fbufData (buf : BufSel) (idx : BitVec 16) : decode (tword true 0x5C (fbufData buf idx)) = .fbufSel buf idx := by
  obtain ⟨hidx, hbit, hreserved⟩ := fbufData_fields buf idx
  have hbuf : operandBuf (fbufData buf idx) = buf := by
    rw [operandBuf, getLsbD_of_extractLsb'_one hbit]
    cases buf <;> rfl
  rw [decode_tword_write, decodeWrite_fbufSel, reservedHigh15, if_pos hreserved, hbuf, operandIndex, hidx]

/-- What FBUF.SEL stores (R145). -/
theorem fselValue_fields (buf : BufSel) (idx : BitVec 16) :
    (fselValue buf idx).extractLsb' 0 16 = idx ∧ (fselValue buf idx).getLsbD 16 = buf.bit := by
  obtain ⟨hidx, hbit, -⟩ := fbufData_fields buf idx
  refine ⟨?_, getLsbD_of_extractLsb'_one ?_⟩
  · rw [fselValue, BitVec.extractLsb'_extractLsb'_of_le (by decide)]
    exact hidx
  · rw [fselValue, BitVec.extractLsb'_extractLsb'_of_le (by decide)]
    exact hbit

/-- The byte that FBUF_SEL selects: 0 at or beyond the capacity of the build (R147). -/
def selectedByte (c : Config) (d : Decoder) : Byte :=
  if d.fsel.getLsbD 16 = true then
    if (d.fsel.extractLsb' 0 16).toNat < c.payCap then Memory.read d.pay (d.fsel.extractLsb' 0 16).toNat else 0
  else
    if (d.fsel.extractLsb' 0 16).toNat < c.hdrCap then Memory.read d.hdr (d.fsel.extractLsb' 0 16).toNat else 0

/-- FBUF_DATA is the selected byte as a field (R51). -/
theorem fbufByte_eq_field (c : Config) (d : Decoder) : fbufByte c d = field (selectedByte c d) 0 := by
  have hzero : (0 : Word) = field (0 : Byte) 0 := by decide
  simp only [fbufByte, selectedByte, hzero, ← apply_ite (field · 0)]

/-- Settles O26: the operand, the stored select and the two registers are read field by field. -/
theorem bufferSelectAndReadReturnTheSelectedByte : Obligations.BufferSelectAndReadReturnTheSelectedByte := by
  refine ⟨⟨decode_fbufData, decode_tword_read 0x5C, decode_tword_read 0x60⟩, fun s =>
    ⟨fun buf idx => ?_, fun d hd => ?_, ?_, ?_⟩⟩
  · exact ⟨fselValue buf idx, rfl, fselValue_fields buf idx⟩
  · have hillegal : decode (tword true 0x5C d) = .wrIllegal 0x5C d := by
      rw [decode_tword_write, decodeWrite_fbufSel]
      exact if_neg hd
    rw [hillegal, exec_wrIllegal]
  · exact ⟨field s.block.dec.fsel 0, rfl, extractLsb'_field_same _ 0 (by decide),
      extractLsb'_field_other _ 0 17 15 (by decide)⟩
  · refine ⟨field (selectedByte s.cfg s.block.dec) 0, ?_, extractLsb'_field_other _ 0 8 24 (by decide), ?_⟩
    · rw [← fbufByte_eq_field]
      rfl
    · rw [extractLsb'_field_same _ 0 (by decide)]
      rfl

end Sys2Proof.Machine
end

section
/-! SUPPORT. The arbiter's operations (R175 to R185): what an operation that raises leaves, what one that is ignored leaves,
and the exact next state of each in every other case. -/

namespace Sys2Proof.Machine

open Sys2Proof

/-! ## Refused and ignored operations (R176, R177, R184, R185, R242, R243) -/

/-- What an operation raises is one of the four errors; the two events are recorded by the decoder (R240). -/
theorem raisedBy_ne_recorded (s : State) (i : Instr) :
    raisedBy s i ≠ some .badChecksum ∧ raisedBy s i ≠ some .frameDrop := by
  unfold raisedBy
  cases i <;> simp

/-- A configuration operation in WAIT (R242). -/
theorem exec_busyReject {i : Instr} {s : State} (h : raisedBy s i = some .busyReject) :
    exec i s = .next (s.raise .busyReject) := by
  obtain ⟨hw, hi⟩ := raisedBy_busyReject.1 h
  rcases hi with rfl | rfl | rfl | ⟨v, rfl⟩ | ⟨n, rfl⟩ | ⟨b, rfl⟩ | ⟨b, rfl⟩ <;>
    exact outcome_eq_next.2 (unlessWaiting_wait _ hw)

/-- ARB.CMD on a full buffer (R182, R243). -/
theorem exec_arbCmd_full {s : State} (b : Byte) (hw : s.block.arb.astate ≠ .wait)
    (hc : s.block.arb.cmdLen.toNat = s.cfg.cmdCap) : exec (.arbCmd b) s = .next (s.raise .overflowCmd) :=
  outcome_eq_next.2 ((unlessWaiting_free _ hw).trans (if_pos hc))

/-- ARB.PAT on a full buffer (R183, R243). -/
theorem exec_arbPat_full {s : State} (b : Byte) (hw : s.block.arb.astate ≠ .wait)
    (hc : s.block.arb.patLen.toNat = s.cfg.patCap) : exec (.arbPat b) s = .next (s.raise .overflowPat) :=
  outcome_eq_next.2 ((unlessWaiting_free _ hw).trans (if_pos hc))

/-- An operation that raises an error does nothing else (R249). -/
theorem exec_of_raisedBy {i : Instr} {s : State} {k : Event} (h : raisedBy s i = some k) : exec i s = .next (s.raise k) := by
  cases k with
  | illegalAccess => obtain ⟨a, d, rfl⟩ := raisedBy_illegalAccess.1 h; rfl
  | busyReject => exact exec_busyReject h
  | overflowCmd => obtain ⟨hw, hc, b, rfl⟩ := raisedBy_overflowCmd.1 h; exact exec_arbCmd_full b hw hc
  | overflowPat => obtain ⟨hw, hc, b, rfl⟩ := raisedBy_overflowPat.1 h; exact exec_arbPat_full b hw hc
  | badChecksum => exact absurd h (raisedBy_ne_recorded s i).1
  | frameDrop => exact absurd h (raisedBy_ne_recorded s i).2

/-- The operations that act in WAIT only have no effect outside it (R176, R177, R184, R185). -/
theorem exec_ignored {i : Instr} {s : State} (hw : s.block.arb.astate ≠ .wait)
    (hi : i = .arbAbort ∨ i = .arbIoerr ∨ (∃ b, i = .arbRx b) ∨ ∃ d, i = .arbTick d) : exec i s = .next s.done := by
  rcases hi with rfl | rfl | ⟨b, rfl⟩ | ⟨d, rfl⟩ <;> exact outcome_eq_next.2 (onlyWaiting_free _ hw)

/-! ## Configuration outside WAIT (R178 to R183) -/

section Configuration

variable {s : State} (hw : s.block.arb.astate ≠ .wait)
include hw

theorem exec_arbStart_free (hc : s.block.arb.cmdLen.toNat ≤ s.cfg.cmdCap) : exec .arbStart s = .next (started s) :=
  outcome_eq_next.2 (startTransaction_free hw hc)

theorem exec_arbClrcmd_free : exec .arbClrcmd s = .next (s.setArb { s.block.arb with cmdLen := 0 }).done :=
  outcome_eq_next.2 (unlessWaiting_free _ hw)

theorem exec_arbClrpat_free : exec .arbClrpat s = .next (s.setArb { s.block.arb with patLen := 0, matchLen := 0 }).done :=
  outcome_eq_next.2 (unlessWaiting_free _ hw)

theorem exec_arbBudget_free (v : Word) : exec (.arbBudget v) s = .next (s.setArb { s.block.arb with budget := v }).done :=
  outcome_eq_next.2 (unlessWaiting_free _ hw)

theorem exec_arbTries_free (n : Byte) :
    exec (.arbTries n) s = .next (s.setArb { s.block.arb with maxTries := triesValue n }).done :=
  outcome_eq_next.2 (unlessWaiting_free _ hw)

/-- ARB.CMD below the capacity (R182). -/
theorem exec_arbCmd_store (b : Byte) (hc : s.block.arb.cmdLen.toNat < s.cfg.cmdCap) :
    exec (.arbCmd b) s = .next (s.setArb { s.block.arb with
      cmd := Memory.write s.block.arb.cmd s.block.arb.cmdLen.toNat b, cmdLen := s.block.arb.cmdLen + 1 }).done := by
  refine outcome_eq_next.2 ((unlessWaiting_free _ hw).trans ?_)
  rw [if_neg hc.ne, storeByte_inside .cmd b s.block.arb.cmd hc]

/-- ARB.PAT below the capacity (R183). -/
theorem exec_arbPat_store (b : Byte) (hc : s.block.arb.patLen.toNat < s.cfg.patCap) :
    exec (.arbPat b) s = .next (s.setArb { s.block.arb with
      pat := Memory.write s.block.arb.pat s.block.arb.patLen.toNat b, patLen := s.block.arb.patLen + 1 }).done := by
  refine outcome_eq_next.2 ((unlessWaiting_free _ hw).trans ?_)
  rw [if_neg hc.ne, storeByte_inside .pat b s.block.arb.pat hc]

end Configuration

theorem triesValue_of_ne_zero {n : Byte} (hn : n ≠ 0) : triesValue n = n := if_neg hn

/-! ## The waiting transaction (R176, R177, R184, R185) -/

section Waiting

variable {s : State} (hw : s.block.arb.astate = .wait)
include hw

theorem exec_arbAbort_wait : exec .arbAbort s = .next (s.setArb { s.block.arb with astate := .aborted }).done :=
  outcome_eq_next.2 (onlyWaiting_wait _ hw)

theorem exec_arbIoerr_wait : exec .arbIoerr s = .next (s.setArb { s.block.arb with astate := .ioerr }).done :=
  outcome_eq_next.2 (onlyWaiting_wait _ hw)

theorem exec_arbRx_wait (b : Byte) (hp : s.block.arb.patLen.toNat ≤ s.cfg.patCap)
    (hm : s.block.arb.matchLen.toNat < s.block.arb.patLen.toNat) : exec (.arbRx b) s = .next (received b s) :=
  outcome_eq_next.2 (receiveReply_wait b hw hp hm)

variable {d : Word}

/-- ARB.TICK up to the time limit. -/
theorem exec_arbTick_within
    (hl : (addElapsed s.block.arb.elapsed d).toNat ≤ timeLimit s.cfg s.block.arb.budget) :
    exec (.arbTick d) s = .next (s.setArb (s.block.arb.ticked d)).done :=
  outcome_eq_next.2 ((onlyWaiting_wait _ hw).trans (if_neg hl.not_gt))

/-- ARB.TICK past the time limit with a try left. -/
theorem exec_arbTick_resend (hl : timeLimit s.cfg s.block.arb.budget < (addElapsed s.block.arb.elapsed d).toNat)
    (ha : s.block.arb.attempts < s.block.arb.maxTries) (hc : s.block.arb.cmdLen.toNat ≤ s.cfg.cmdCap) :
    exec (.arbTick d) s =
      .next (sent (s.setArb { s.block.arb.ticked d with attempts := s.block.arb.attempts + 1 })).done := by
  refine outcome_eq_next.2 ((onlyWaiting_wait _ hw).trans ((if_pos hl).trans ((if_pos ha).trans ?_)))
  rw [send_inside (by simpa using hc)]
  rfl

/-- ARB.TICK past the time limit with no try left. -/
theorem exec_arbTick_timeout (hl : timeLimit s.cfg s.block.arb.budget < (addElapsed s.block.arb.elapsed d).toNat)
    (ha : ¬ s.block.arb.attempts < s.block.arb.maxTries) :
    exec (.arbTick d) s = .next (s.setArb { s.block.arb.ticked d with astate := .timeout }).done :=
  outcome_eq_next.2 ((onlyWaiting_wait _ hw).trans ((if_pos hl).trans (if_neg ha)))

end Waiting

/-- The saturating sum as a number (R185). -/
theorem toNat_addElapsed (e : BitVec 64) (d : Word) : (addElapsed e d).toNat = min (e.toNat + d.toNat) (2 ^ 64 - 1) := by
  rw [addElapsed, BitVec.toNat_ofNat, Nat.mod_eq_of_lt (by omega)]

/-! ## The statements of R175 to R185 -/

/-- Settles O38: the byte goes to the end of its buffer by `Memory.write`; the refused forms are errors and nothing else. -/
theorem appendStoresOneByteOrOverflows : Obligations.AppendStoresOneByteOrOverflows := by
  refine ⟨⟨byteOperation_of_decodeByteForm fun _ => rfl, byteOperation_of_decodeByteForm fun _ => rfl⟩,
    fun s b hw => ⟨exec_busyReject (busyOr_wait _ hw), exec_busyReject (busyOr_wait _ hw)⟩, fun s b hw hcmd hpat =>
    ⟨fun hc => ?_, exec_arbCmd_full b hw, fun hc => ?_, exec_arbPat_full b hw⟩⟩
  · exact ⟨_, exec_arbCmd_store hw b hc, Memory.write_wf b hcmd hc,
      Memory.read_write_same _ 0 _ b (Memory.wf_from hcmd), fun k hk => Memory.read_write_other _ _ k b hk⟩
  · exact ⟨_, exec_arbPat_store hw b hc, Memory.write_wf b hpat hc,
      Memory.read_write_same _ 0 _ b (Memory.wf_from hpat), fun k hk => Memory.read_write_other _ _ k b hk⟩

/-- Settles O35: outside WAIT the model leaves `started`; in WAIT ARB.START is one of the busy rule's operations. -/
theorem startSendsTheCommandAndWaits : Obligations.StartSendsTheCommandAndWaits :=
  ⟨decode_tword_write 0x80 0x01, fun _ => ⟨exec_arbStart_free, fun hw => exec_busyReject (busyOr_wait _ hw)⟩⟩

/-- Settles O37: each operation stores its value outside WAIT, 0 tries as 1, and is refused in it. -/
theorem configurationWritesStoreOutsideWait : Obligations.ConfigurationWritesStoreOutsideWait := by
  refine ⟨⟨decode_tword_write 0x80 0x08, decode_tword_write 0x80 0x10, decode_tword_write 0x88,
    byteOperation_of_decodeByteForm fun _ => rfl⟩, fun s => ⟨fun hw => ?_, fun hw i hi => ?_⟩⟩
  · refine ⟨exec_arbClrcmd_free hw, exec_arbClrpat_free hw, exec_arbBudget_free hw, fun n hn => ?_, exec_arbTries_free hw 0⟩
    rw [exec_arbTries_free hw, triesValue_of_ne_zero hn]
    rfl
  · rcases hi with rfl | rfl | ⟨v, rfl⟩ | ⟨n, rfl⟩ <;> exact exec_busyReject (busyOr_wait _ hw)

/-- Settles O39: the two operations act in WAIT only. -/
theorem abortAndIoerrEndOnlyAWaitingTransaction : Obligations.AbortAndIoerrEndOnlyAWaitingTransaction :=
  ⟨⟨decode_tword_write 0x80 0x02, decode_tword_write 0x80 0x04⟩, fun _ =>
    ⟨fun hw => ⟨exec_arbAbort_wait hw, exec_arbIoerr_wait hw⟩,
      fun hw => ⟨exec_ignored hw (.inl rfl), exec_ignored hw (.inr (.inl rfl))⟩⟩⟩

/-- Settles O42: the sum `e` is the model's `addElapsed`; the limit and the tries left choose the clause. -/
theorem tickAdvancesTimeRetriesOrTimesOut : Obligations.TickAdvancesTimeRetriesOrTimesOut := by
  refine ⟨decode_tword_write 0x9C, fun s d e he => ?_⟩
  obtain rfl : e = addElapsed s.block.arb.elapsed d := BitVec.eq_of_toNat_eq (he.trans (toNat_addElapsed _ _).symm)
  exact ⟨fun hw => exec_ignored hw (.inr (.inr (.inr ⟨d, rfl⟩))), fun hw hl => exec_arbTick_within hw hl,
    fun hw hl ha hc => exec_arbTick_resend hw hl ha hc, fun hw hl ha => exec_arbTick_timeout hw hl (Nat.not_lt.2 ha)⟩

end Sys2Proof.Machine
end

section
/-! SUPPORT. The match step (R172): the bounded search finds the longest initial part of the pattern that ends
the text. -/

namespace Sys2Proof.Machine

open Sys2Proof

theorem longestPrefixSuffix_isSuffix (p t : List Byte) : ∀ n, p.take (longestPrefixSuffix p t n) <:+ t
  | 0 => List.nil_suffix
  | n + 1 => by
    unfold longestPrefixSuffix
    split
    · next h => exact List.isSuffixOf_iff_suffix.1 h
    · exact longestPrefixSuffix_isSuffix p t n

/-- No initial part of the pattern within the bound that ends the text is longer than the one found. -/
theorem le_longestPrefixSuffix {p t : List Byte} {j : Nat} (hj : p.take j <:+ t) : ∀ {n}, j ≤ n → j ≤ longestPrefixSuffix p t n
  | 0, hn => hn
  | n + 1, hn => by
    unfold longestPrefixSuffix
    split
    · exact hn
    · next h =>
      have hne : j ≠ n + 1 := by
        rintro rfl
        exact h (List.isSuffixOf_iff_suffix.2 hj)
      exact le_longestPrefixSuffix hj (by omega)

theorem matchNext_isSuffix (p : List Byte) (k : Nat) (b : Byte) : p.take (matchNext p k b) <:+ p.take k ++ [b] :=
  longestPrefixSuffix_isSuffix _ _ _

/-- What ends the text is no longer than the text, so the search from `min(k + 1, pat_len)` misses nothing. -/
theorem le_matchNext {p : List Byte} {k j : Nat} {b : Byte} (hj : j ≤ p.length) (h : p.take j <:+ p.take k ++ [b]) :
    j ≤ matchNext p k b := by
  have hlen : (p.take j).length ≤ (p.take k ++ [b]).length := h.length_le
  simp only [List.length_append, List.length_take, List.length_singleton] at hlen
  exact le_longestPrefixSuffix h (by omega)

/-- Settles O40: the search stays within the pattern, answers a suffix, and misses no larger one. -/
theorem matchStepIsTheLargestPrefixSuffix : Obligations.MatchStepIsTheLargestPrefixSuffix := fun p k b _ =>
  ⟨matchNext_le p k b, matchNext_isSuffix p k b, fun _ hj h => le_matchNext hj h⟩

/-- A match step on the arbiter's pattern fits the eight bits of `match_len`. -/
theorem toNat_ofNat_matchNext (a : Arbiter) (k : Nat) (b : Byte) :
    (BitVec.ofNat 8 (matchNext a.pattern k b)).toNat = matchNext a.pattern k b := by
  have hle := matchNext_le a.pattern k b
  rw [Arbiter.pattern_length] at hle
  exact (BitVec.toNat_ofNat _ _).trans (Nat.mod_eq_of_lt (by omega))

/-- Settles O41: `match_len` holds the match step exactly, so it has the properties of `matchNext`. -/
theorem replyByteAdvancesTheMatch : Obligations.ReplyByteAdvancesTheMatch := by
  refine ⟨byteOperation_of_decodeByteForm fun _ => rfl, fun s b =>
    ⟨fun hw hp hm => ?_, fun hw => exec_ignored hw (.inr (.inr (.inl ⟨b, rfl⟩)))⟩⟩
  have hj := toNat_ofNat_matchNext s.block.arb s.block.arb.matchLen.toNat b
  refine ⟨BitVec.ofNat 8 (matchNext s.block.arb.pattern s.block.arb.matchLen.toNat b), ?_, ?_, fun k hk h => ?_, ?_⟩
  · rw [hj]
    exact matchNext_isSuffix _ _ b
  · rw [hj, ← Arbiter.pattern_length]
    exact matchNext_le _ _ b
  · rw [hj]
    exact le_matchNext (by rwa [Arbiter.pattern_length]) h
  · rw [exec_arbRx_wait hw b hp hm, received]
    simp only [BitVec.toNat_eq, hj]
    rfl

end Sys2Proof.Machine
end

section
/-! SUPPORT. The arbiter's registers (R186 to R191): each is a sum of fields, or a half of the elapsed time. -/

namespace Sys2Proof.Machine

open Sys2Proof

/-- The fields of ARB_STATUS (R54). -/
theorem arbStatus_fields (a : Arbiter) :
    a.status.extractLsb' 0 3 = a.astate.code ∧ a.status.extractLsb' 3 5 = 0 ∧ a.status.extractLsb' 8 8 = a.attempts ∧
    a.status.extractLsb' 16 8 = a.matchLen ∧ a.status.extractLsb' 24 8 = 0 := by
  rw [Arbiter.status]
  simp [BitVec.extractLsb'_or, extractLsb'_field_same, extractLsb'_field_other]

/-- The fields of ARB_LEN (R57). -/
theorem arbLengths_fields (a : Arbiter) :
    a.lengths.extractLsb' 0 8 = a.cmdLen ∧ a.lengths.extractLsb' 8 8 = a.patLen ∧ a.lengths.extractLsb' 16 16 = 0 := by
  rw [Arbiter.lengths]
  simp [BitVec.extractLsb'_or, extractLsb'_field_same, extractLsb'_field_other]

/-- A byte as the lowest field keeps its value. -/
theorem toNat_field_byte (v : Byte) : (field v 0).toNat = v.toNat := by
  rw [field, BitVec.shiftLeft_zero]
  exact BitVec.toNat_setWidth_of_le (by decide)

/-- The two halves of the elapsed time, put together again (R190, R191). -/
theorem elapsed_halves (e : BitVec 64) : e.extractLsb' 32 32 ++ e.extractLsb' 0 32 = e := by
  rw [BitVec.extractLsb'_append_extractLsb'_eq_extractLsb' (show 32 = 0 + 32 by decide), BitVec.extractLsb'_eq_self]

/-- Settles O44: each register reads its element, the packed ones field by field. -/
theorem arbiterReadsReportTheirElements : Obligations.ArbiterReadsReportTheirElements :=
  ⟨⟨decode_tword_read 0x84, decode_tword_read 0x88, decode_tword_read 0x8C, decode_tword_read 0xA0,
    decode_tword_read 0xA4, decode_tword_read 0xA8⟩, fun s =>
    ⟨⟨_, rfl, arbStatus_fields s.block.arb⟩, rfl, ⟨_, rfl, toNat_field_byte s.block.arb.maxTries⟩,
      ⟨_, rfl, arbLengths_fields s.block.arb⟩,
      ⟨_, _, rfl, rfl, elapsed_halves s.block.arb.elapsed⟩⟩⟩

end Sys2Proof.Machine
end

section
/-! SUPPORT. Independence of the units (R195). An operation of one unit answers with new elements of that unit and outputs that
are fixed by the elements of that unit and the parameters: in any state that agrees on these, the answer is the same, set
beside whatever the other units hold there. -/

namespace Sys2Proof.Machine

open Sys2Proof

/-! ## The CRC unit and the decoder -/

/-- The CRC unit's register becomes `v`, with these outputs; nothing else of the machine changes. -/
def State.answeredCrc (s : State) (v : Word) (o : Outputs) : State := { s with block := { s.block with crc := v }, out := o }

/-- The decoder's elements become `d`, with these outputs; nothing else of the machine changes. -/
def State.answeredDec (s : State) (d : Decoder) (o : Outputs) : State := { s with block := { s.block with dec := d }, out := o }

/-- An operation of the CRC unit answers alike beside every decoder, every arbiter and all sticky bits. -/
theorem exec_crc_local {i : Instr} {s s' t : State} (hi : unitOf i = .crc) (hcrc : s'.block.crc = s.block.crc)
    (h : exec i s = .next t) : exec i s' = .next (s'.answeredCrc t.block.crc t.out) := by
  obtain ⟨_, ⟨_, _, _, _⟩, _, _, _⟩ := s'
  subst hcrc
  cases i with
  | crcSeed | crcByte | rdCrcVal => cases h; rfl
  | _ => cases hi

/-- A decoder operation answers alike beside every CRC register, every arbiter and all sticky bits. -/
theorem exec_decoder_local {i : Instr} {s s' t : State} (hi : unitOf i = .decoder) (hcfg : s'.cfg = s.cfg)
    (hdec : s'.block.dec = s.block.dec) (h : exec i s = .next t) : exec i s' = .next (s'.answeredDec t.block.dec t.out) := by
  cases i with
  | decByte b =>
    obtain ⟨r, hr, rfl⟩ := consumeByte_ok (outcome_eq_next.1 h)
    rw [← hcfg, ← hdec] at hr
    exact exec_decByte_of_step hr
  | rdDecResult | rdDecStatus | rdDecRead | rdDecMsginfo | rdDecRxcrc | rdDecCalccrc | fbufSel | rdFbufSel | rdFbufData
  | rdBadcrcCnt | rdDropCnt =>
    obtain ⟨_, ⟨_, _, _, _⟩, _, _, _⟩ := s'
    subst hcfg hdec
    cases h
    rfl
  | _ => cases hi

/-! ## The arbiter -/

/-- The arbiter's elements become `a`, the bytes `bs` leave on `tx`, with these outputs; an error among them is recorded in
the sticky bits; nothing else of the machine changes. -/
def State.answeredArb (s : State) (a : Arbiter) (bs : List Byte) (o : Outputs) : State :=
  { s with
    block := { s.block with arb := a, sticky := o.event.elim s.block.sticky fun k => s.block.sticky.record k }
    tx := s.tx ++ bs
    out := o }

theorem raise_eq_answeredArb (k : Event) (s : State) :
    s.raise k = s.answeredArb s.block.arb [] { Outputs.quiet with event := some k } := by
  simp [State.raise, State.answeredArb, State.setSticky]

theorem returning_eq_answeredArb (v : Word) (s : State) :
    s.returning v = s.answeredArb s.block.arb [] { Outputs.quiet with rdata := some v } := by
  simp [State.returning, State.answeredArb, Outputs.quiet]

theorem setArb_done_eq_answeredArb (a : Arbiter) (s : State) : (s.setArb a).done = s.answeredArb a [] Outputs.quiet := by
  simp [State.setArb, State.done, State.answeredArb, Outputs.quiet]

/-- The machine `r` rebuilt with the parameters and the arbiter of `s`: an arbitrary state that agrees with `s` on these. -/
def State.withArbiterOf (r s : State) : State := { r with cfg := s.cfg, block := { r.block with arb := s.block.arb } }

theorem withArbiterOf_of_agree {r s : State} (hcfg : r.cfg = s.cfg) (harb : r.block.arb = s.block.arb) : r.withArbiterOf s = r := by
  rw [State.withArbiterOf, ← hcfg, ← harb]

/-- The operation sends the same bytes, leaves the arbiter of `t` and has its outputs in every state that agrees with `s` on
the parameters and the arbiter. -/
def AnswersAlike (i : Instr) (s t : State) : Prop :=
  ∃ bs, ∀ r : State, exec i (r.withArbiterOf s) = .next ((r.withArbiterOf s).answeredArb t.block.arb bs t.out)

section AnswersAlike

variable {i : Instr} {s t : State} (h : exec i s = .next t)
include h

/-- It is enough that some answer is the same in all these states: in `s` it is the one that led to `t`. -/
theorem answersAlike_of_answer (a : Arbiter) (bs : List Byte) (o : Outputs)
    (ha : ∀ r : State, exec i (r.withArbiterOf s) = .next ((r.withArbiterOf s).answeredArb a bs o)) : AnswersAlike i s t := by
  cases h.symm.trans (ha s)
  exact ⟨bs, ha⟩

theorem answersAlike_of_write (a : Arbiter)
    (ha : ∀ r : State, exec i (r.withArbiterOf s) = .next ((r.withArbiterOf s).setArb a).done) : AnswersAlike i s t :=
  answersAlike_of_answer h a [] Outputs.quiet fun r => by rw [ha, setArb_done_eq_answeredArb]

theorem answersAlike_of_read (v : Word)
    (hv : ∀ r : State, exec i (r.withArbiterOf s) = .next ((r.withArbiterOf s).returning v)) : AnswersAlike i s t :=
  answersAlike_of_answer h s.block.arb [] { Outputs.quiet with rdata := some v } fun r => by
    rw [hv, returning_eq_answeredArb]
    rfl

theorem answersAlike_of_raise {k : Event} (hk : raisedBy s i = some k) : AnswersAlike i s t :=
  answersAlike_of_answer h s.block.arb [] { Outputs.quiet with event := some k } fun r => by
    have hr : raisedBy (r.withArbiterOf s) i = raisedBy s i := by cases i <;> rfl
    rw [exec_of_raisedBy (hr.trans hk), raise_eq_answeredArb]
    rfl

end AnswersAlike

theorem not_wait_of_busyOr {s : State} {e : Option Event} (h : busyOr s e = none) : s.block.arb.astate ≠ .wait := fun hw => by
  rw [busyOr_wait e hw] at h
  cases h

theorem answersAlike_arbStart {s t : State} (h : exec .arbStart s = .next t) (hw : s.block.arb.astate ≠ .wait) :
    AnswersAlike .arbStart s t := by
  rcases startTransaction_ok (outcome_eq_next.1 h) with ⟨hw', _⟩ | ⟨_, hc, _⟩
  · exact absurd hw' hw
  · exact answersAlike_of_answer h (started s).block.arb s.block.arb.command Outputs.quiet fun r =>
      exec_arbStart_free (s := r.withArbiterOf s) hw hc

theorem answersAlike_arbCmd {b : Byte} {s t : State} (h : exec (.arbCmd b) s = .next t) (hr : raisedBy s (.arbCmd b) = none) :
    AnswersAlike (.arbCmd b) s t := by
  rcases appendCommand_ok (outcome_eq_next.1 h) with ⟨hw, _⟩ | ⟨hw, hc, _⟩ | ⟨hw, hc, _⟩
  · exact absurd hw (not_wait_of_busyOr hr)
  · rw [raisedBy_overflowCmd.2 ⟨hw, hc, b, rfl⟩] at hr
    cases hr
  · exact answersAlike_of_write h { s.block.arb with
      cmd := Memory.write s.block.arb.cmd s.block.arb.cmdLen.toNat b, cmdLen := s.block.arb.cmdLen + 1 } fun r =>
        exec_arbCmd_store (s := r.withArbiterOf s) hw b hc

theorem answersAlike_arbPat {b : Byte} {s t : State} (h : exec (.arbPat b) s = .next t) (hr : raisedBy s (.arbPat b) = none) :
    AnswersAlike (.arbPat b) s t := by
  rcases appendPattern_ok (outcome_eq_next.1 h) with ⟨hw, _⟩ | ⟨hw, hc, _⟩ | ⟨hw, hc, _⟩
  · exact absurd hw (not_wait_of_busyOr hr)
  · rw [raisedBy_overflowPat.2 ⟨hw, hc, b, rfl⟩] at hr
    cases hr
  · exact answersAlike_of_write h { s.block.arb with
      pat := Memory.write s.block.arb.pat s.block.arb.patLen.toNat b, patLen := s.block.arb.patLen + 1 } fun r =>
        exec_arbPat_store (s := r.withArbiterOf s) hw b hc

/-- An operation that has no effect outside WAIT. -/
theorem answersAlike_ignored {i : Instr} {s t : State} (h : exec i s = .next t) (hw : s.block.arb.astate ≠ .wait)
    (hi : i = .arbAbort ∨ i = .arbIoerr ∨ (∃ b, i = .arbRx b) ∨ ∃ d, i = .arbTick d) : AnswersAlike i s t :=
  answersAlike_of_write h s.block.arb fun r => exec_ignored (s := r.withArbiterOf s) hw hi

/-- A reply byte that is answered in WAIT found the pattern inside its buffer. -/
theorem patLen_le_of_receiveReply {c : Config} {b : Byte} {s t : State} (hw : s.block.arb.astate = .wait)
    (h : receiveReply c b s = .ok t) : s.block.arb.patLen.toNat ≤ c.patCap := by
  rw [receiveReply, onlyWaiting_wait _ hw] at h
  split at h
  · cases h
  · next hl => exact (loadSpan_ok hl).1

theorem answersAlike_arbRx {b : Byte} {s t : State} (h : exec (.arbRx b) s = .next t) : AnswersAlike (.arbRx b) s t := by
  have hx := outcome_eq_next.1 h
  rcases receiveReply_ok hx with ⟨hw, _⟩ | ⟨hw, hm, _⟩
  · exact answersAlike_ignored h hw (.inr (.inr (.inl ⟨b, rfl⟩)))
  · have hp := patLen_le_of_receiveReply hw hx
    exact answersAlike_of_write h (received b s).block.arb fun r => exec_arbRx_wait (s := r.withArbiterOf s) hw b hp hm

theorem answersAlike_arbTick {d : Word} {s t : State} (h : exec (.arbTick d) s = .next t) : AnswersAlike (.arbTick d) s t := by
  rcases tick_ok (outcome_eq_next.1 h) with ⟨hw, _⟩ | ⟨hw, hl, _⟩ | ⟨hw, hl, ha, hc, _⟩ | ⟨hw, hl, ha, _⟩
  · exact answersAlike_ignored h hw (.inr (.inr (.inr ⟨d, rfl⟩)))
  · exact answersAlike_of_write h (s.block.arb.ticked d) fun r => exec_arbTick_within (s := r.withArbiterOf s) hw hl
  · exact answersAlike_of_answer h
      { s.block.arb with attempts := s.block.arb.attempts + 1, elapsed := 0, matchLen := 0 } s.block.arb.command Outputs.quiet fun r =>
      exec_arbTick_resend (s := r.withArbiterOf s) hw hl ha hc
  · exact answersAlike_of_write h { s.block.arb.ticked d with astate := .timeout } fun r =>
      exec_arbTick_timeout (s := r.withArbiterOf s) hw hl ha

/-- An arbiter operation answers alike beside every CRC register, every decoder and all sticky bits. -/
theorem exec_arbiter_answersAlike {i : Instr} {s t : State} (hi : unitOf i = .arbiter) (h : exec i s = .next t) :
    AnswersAlike i s t := by
  cases hr : raisedBy s i with
  | some k => exact answersAlike_of_raise h hr
  | none =>
    cases i with
    | arbStart => exact answersAlike_arbStart h (not_wait_of_busyOr hr)
    | arbCmd b => exact answersAlike_arbCmd h hr
    | arbPat b => exact answersAlike_arbPat h hr
    | arbRx b => exact answersAlike_arbRx h
    | arbTick d => exact answersAlike_arbTick h
    | arbClrcmd =>
      exact answersAlike_of_write h { s.block.arb with cmdLen := 0 } fun r =>
        exec_arbClrcmd_free (s := r.withArbiterOf s) (not_wait_of_busyOr hr)
    | arbClrpat =>
      exact answersAlike_of_write h { s.block.arb with patLen := 0, matchLen := 0 } fun r =>
        exec_arbClrpat_free (s := r.withArbiterOf s) (not_wait_of_busyOr hr)
    | arbBudget v =>
      exact answersAlike_of_write h { s.block.arb with budget := v } fun r =>
        exec_arbBudget_free (s := r.withArbiterOf s) (not_wait_of_busyOr hr) v
    | arbTries n =>
      exact answersAlike_of_write h { s.block.arb with maxTries := triesValue n } fun r =>
        exec_arbTries_free (s := r.withArbiterOf s) (not_wait_of_busyOr hr) n
    | arbAbort =>
      by_cases hw : s.block.arb.astate = .wait
      · exact answersAlike_of_write h { s.block.arb with astate := .aborted } fun r =>
          exec_arbAbort_wait (s := r.withArbiterOf s) hw
      · exact answersAlike_ignored h hw (.inl rfl)
    | arbIoerr =>
      by_cases hw : s.block.arb.astate = .wait
      · exact answersAlike_of_write h { s.block.arb with astate := .ioerr } fun r =>
          exec_arbIoerr_wait (s := r.withArbiterOf s) hw
      · exact answersAlike_ignored h hw (.inr (.inl rfl))
    | rdArbStatus => exact answersAlike_of_read h s.block.arb.status fun _ => rfl
    | rdArbBudget => exact answersAlike_of_read h s.block.arb.budget fun _ => rfl
    | rdArbTries => exact answersAlike_of_read h (field s.block.arb.maxTries 0) fun _ => rfl
    | rdArbLen => exact answersAlike_of_read h s.block.arb.lengths fun _ => rfl
    | rdArbElapsedLo => exact answersAlike_of_read h (s.block.arb.elapsed.extractLsb' 0 32) fun _ => rfl
    | rdArbElapsedHi => exact answersAlike_of_read h (s.block.arb.elapsed.extractLsb' 32 32) fun _ => rfl
    | _ => cases hi

/-! ## The statement of R195 -/

/-- The same of any two states that agree on the parameters and the arbiter, as for the other two units. -/
theorem exec_arbiter_local {i : Instr} {s t : State} (hi : unitOf i = .arbiter) (h : exec i s = .next t) :
    ∃ bs, ∀ s' : State, s'.cfg = s.cfg → s'.block.arb = s.block.arb →
      exec i s' = .next (s'.answeredArb t.block.arb bs t.out) := by
  obtain ⟨bs, hbs⟩ := exec_arbiter_answersAlike hi h
  refine ⟨bs, fun s' hcfg harb => ?_⟩
  rw [← withArbiterOf_of_agree hcfg harb]
  exact hbs s'

/-- Settles O50: each unit's operations answer alike in the two states, and in the first state itself the answer changes no
other unit. -/
theorem unitsAreIndependent : Obligations.UnitsAreIndependent := by
  refine ⟨fun i s s' t t' hcfg h h' => ⟨fun hi => ?_, fun hi => ?_, fun hi => ?_⟩, fun b s t a h => ?_⟩
  · obtain ⟨bs, hbs⟩ := exec_arbiter_local hi h
    have ht := Host.Outcome.next.inj (h.symm.trans (hbs s rfl rfl))
    refine ⟨congrArg (·.block.crc) ht, congrArg (·.block.dec) ht, fun harb => ?_⟩
    cases h'.symm.trans (hbs s' hcfg.symm harb.symm)
    have htx : t.tx = s.tx ++ bs := congrArg State.tx ht
    exact ⟨rfl, rfl, fun he => by rw [htx, he]; rfl, bs, htx, rfl⟩
  · have ht := Host.Outcome.next.inj (h.symm.trans (exec_decoder_local hi rfl rfl h))
    refine ⟨congrArg (·.block.crc) ht, congrArg (·.block.arb) ht, congrArg (·.tx) ht, fun hdec => ?_⟩
    cases h'.symm.trans (exec_decoder_local hi hcfg.symm hdec.symm h)
    exact ⟨rfl, rfl⟩
  · have ht := Host.Outcome.next.inj (h.symm.trans (exec_crc_local hi rfl h))
    refine ⟨congrArg (·.block.dec) ht, congrArg (·.block.arb) ht, congrArg (·.tx) ht, fun hcrc => ?_⟩
    cases h'.symm.trans (exec_crc_local hi hcrc.symm h)
    exact ⟨rfl, rfl⟩
  · have ht := Host.Outcome.next.inj (h.symm.trans (exec_decoder_local rfl rfl rfl h))
    refine ⟨congrArg (·.block.sticky) ht, ?_⟩
    have ha := exec_decoder_local (s := s) (s' := { s with block := { s.block with arb := a } }) rfl rfl rfl h
    rw [ha, ht]
    rfl

end Sys2Proof.Machine
end

section
/-! SUPPORT. Block control (R220 to R228): the capability registers as sums of the build's parameters, the bits of the STATUS
register and when it is 0, and what each control command writes. -/

namespace Sys2Proof.Machine

open Sys2Proof

/-! ## The capability registers (R220 to R223) -/

/-- A number as the lowest field is the number as a word. -/
theorem natField_zero (n : Nat) : natField n 0 = BitVec.ofNat 32 n := BitVec.shiftLeft_zero _

theorem caps0_eq (c : Config) : caps0 c = BitVec.ofNat 32 c.hdrCap ||| (BitVec.ofNat 32 c.payCap <<< 8) := by
  rw [caps0, natField_zero, natField]

theorem caps1_eq (c : Config) : caps1 c = BitVec.ofNat 32 c.cmdCap ||| (BitVec.ofNat 32 c.patCap <<< 8) := by
  rw [caps1, natField_zero, natField]

theorem caps2_eq (c : Config) : caps2 c = BitVec.ofNat 32 c.timeoutMult := natField_zero _

theorem caps3_eq (c : Config) : caps3 c = BitVec.ofNat 32 c.msgidOffset ||| (BitVec.ofNat 32 c.msglenOffset <<< 8) |||
    (BitVec.ofNat 32 (max c.msgidOffset c.msglenOffset + 2) <<< 16) := by
  rw [caps3, natField_zero, natField, natField, Config.hdrMinLen]

/-- The four words of the chosen build, the examples of R220 to R223. -/
theorem caps_config : caps0 config = 0x0002001C ∧ caps1 config = 0x0000FFFF ∧ caps2 config = 0x000003E8 ∧
    caps3 config = 0x000A0804 := by decide

theorem exec_rdCaps0 (s : State) : exec .rdCaps0 s = .next (s.readBack (caps0 s.cfg)) := rfl

theorem exec_rdCaps1 (s : State) : exec .rdCaps1 s = .next (s.readBack (caps1 s.cfg)) := rfl

theorem exec_rdCaps2 (s : State) : exec .rdCaps2 s = .next (s.readBack (caps2 s.cfg)) := rfl

theorem exec_rdCaps3 (s : State) : exec .rdCaps3 s = .next (s.readBack (caps3 s.cfg)) := rfl

/-- Settles O12: each capability read answers with its register, a sum of the parameters of the build in the state; at the
chosen parameters the registers are the four words. -/
theorem capabilityReadsReturnTheChosenParameters : Obligations.CapabilityReadsReturnTheChosenParameters := by
  refine ⟨⟨decode_tword_read 0x00, decode_tword_read 0x04, decode_tword_read 0x08, decode_tword_read 0x0C⟩,
    fun s => ?packed, fun s hs => ?chosen⟩
  case packed =>
    exact ⟨by rw [exec_rdCaps0, caps0_eq], by rw [exec_rdCaps1, caps1_eq], by rw [exec_rdCaps2, caps2_eq],
      by rw [exec_rdCaps3, caps3_eq]⟩
  case chosen =>
    have hcfg : s.cfg = config := hs
    obtain ⟨h0, h1, h2, h3⟩ := caps_config
    exact ⟨by rw [exec_rdCaps0, hcfg, h0], by rw [exec_rdCaps1, hcfg, h1], by rw [exec_rdCaps2, hcfg, h2],
      by rw [exec_rdCaps3, hcfg, h3]⟩

/-! ## The STATUS register (R44, R228) -/

theorem bitWord_eq_field (b : Bool) : bitWord b = field (BitVec.ofBool b) 0 := (BitVec.shiftLeft_zero _).symm

/-- The fields of STATUS (R44): four of one bit, and the reserved one above them. -/
theorem Sticky.status_fields (f : Sticky) :
    f.status.extractLsb' 0 1 = BitVec.ofBool f.illop ∧ f.status.extractLsb' 1 1 = BitVec.ofBool f.cmdovf ∧
    f.status.extractLsb' 2 1 = BitVec.ofBool f.patovf ∧ f.status.extractLsb' 3 1 = BitVec.ofBool f.busy ∧
    f.status.extractLsb' 4 28 = 0 := by
  rw [Sticky.status, bitWord_shiftLeft, bitWord_shiftLeft, bitWord_shiftLeft, bitWord_eq_field]
  simp [BitVec.extractLsb'_or, extractLsb'_field_same, extractLsb'_field_other]

/-- The bits of STATUS: a sticky bit each in bits 3:0, the others 0. -/
theorem Sticky.status_bits (f : Sticky) :
    f.status.getLsbD 0 = f.illop ∧ f.status.getLsbD 1 = f.cmdovf ∧ f.status.getLsbD 2 = f.patovf ∧
    f.status.getLsbD 3 = f.busy ∧ f.status.extractLsb' 4 28 = 0 := by
  obtain ⟨hillop, hcmd, hpat, hbusy, hhigh⟩ := f.status_fields
  exact ⟨getLsbD_of_extractLsb'_one hillop, getLsbD_of_extractLsb'_one hcmd, getLsbD_of_extractLsb'_one hpat,
    getLsbD_of_extractLsb'_one hbusy, hhigh⟩

/-- STATUS is 0 exactly when no sticky bit is set: a set one is a bit of STATUS, and with none every field is 0. -/
theorem Sticky.status_eq_zero_iff (f : Sticky) : f.status = 0 ↔ f.any = false := by
  constructor
  · intro hzero
    obtain ⟨hillop, hcmd, hpat, hbusy, -⟩ := f.status_bits
    simp [Sticky.any, ← hillop, ← hcmd, ← hpat, ← hbusy, hzero]
  · intro hnone
    obtain ⟨⟨⟨hillop, hcmd⟩, hpat⟩, hbusy⟩ : ((f.illop = false ∧ f.cmdovf = false) ∧ f.patovf = false) ∧ f.busy = false := by
      simpa [Sticky.any] using hnone
    rw [Sticky.status, hillop, hcmd, hpat, hbusy]
    rfl

theorem err_iff_status_ne_zero (s : State) : s.err = true ↔ s.block.sticky.status ≠ 0 := by
  rw [Ne, Sticky.status_eq_zero_iff, Bool.not_eq_false, State.err]

theorem exec_rdStatus (s : State) : exec .rdStatus s = .next (s.readBack s.block.sticky.status) := rfl

/-- Settles O14: the read answers with STATUS, whose bits are the sticky bits, so that it is 0 exactly when `err` is. -/
theorem statusReadReportsTheStickyBits : Obligations.StatusReadReportsTheStickyBits := by
  refine ⟨decode_tword_read 0x14, fun s => ⟨s.block.sticky.status, exec_rdStatus s, ?_⟩⟩
  obtain ⟨hillop, hcmd, hpat, hbusy, hhigh⟩ := s.block.sticky.status_bits
  exact ⟨hillop, hcmd, hpat, hbusy, hhigh, err_iff_status_ne_zero s⟩

/-! ## The control commands (R84, R225 to R227) -/

/-- A write to CTRL is the command of its one-hot value (R84). -/
theorem decode_ctrl (d : Word) : decode (tword true 0x10 d) = decodeCtrl 0x10 d := decode_tword_write 0x10 d

theorem exec_ctlDecrst (s : State) : exec .ctlDecrst s = .next (s.wrote { s.block with
    dec := { s.block.dec with dstate := .sync1, read := 0, frameValid := false, decResult := 0 } }) := rfl

theorem exec_ctlClrerr (s : State) : exec .ctlClrerr s = .next (s.wrote { s.block with
    sticky := { illop := false, cmdovf := false, patovf := false, busy := false } }) := rfl

theorem exec_ctlClrcnt (s : State) : exec .ctlClrcnt s = .next (s.wrote { s.block with
    dec := { s.block.dec with badcrcCnt := 0, dropCnt := 0 } }) := rfl

/-- Settles O15: the three values of CTRL, and the block each command writes. -/
theorem controlCommandsChangeOnlyTheirElements : Obligations.ControlCommandsChangeOnlyTheirElements :=
  ⟨⟨decode_ctrl 0x2, decode_ctrl 0x4, decode_ctrl 0x8⟩, fun s => ⟨exec_ctlDecrst s, exec_ctlClrerr s, exec_ctlClrcnt s⟩⟩

end Sys2Proof.Machine
end

section
/-! SUPPORT. Errors and events (R240 to R249): the event an operation puts out is the error it raises or what the decoder
records, and a sticky bit rises only with its own error. -/

namespace Sys2Proof.Machine

open Sys2Proof

/-- Settles O36: the seven operations are those that the busy rule holds back. -/
theorem configurationIsRefusedWhileWaiting : Obligations.ConfigurationIsRefusedWhileWaiting := fun _ _ hw hi =>
  exec_busyReject (raisedBy_busyReject.2 ⟨hw, hi⟩)

/-! ## What a decoder step records (R244) -/

/-- The step records nothing and counts nothing, or records one of the two events and counts that one once. -/
def DecStep.CountsItsEvent (d : Decoder) (r : DecStep) : Prop :=
  (r.event = none ∧ r.dec.badcrcCnt = d.badcrcCnt ∧ r.dec.dropCnt = d.dropCnt) ∨
  (r.event = some .badChecksum ∧ r.dec.badcrcCnt = d.badcrcCnt + 1 ∧ r.dec.dropCnt = d.dropCnt) ∨
  (r.event = some .frameDrop ∧ r.dec.badcrcCnt = d.badcrcCnt ∧ r.dec.dropCnt = d.dropCnt + 1)

theorem stepTo_countsItsEvent {d d' : Decoder} (hbad : d'.badcrcCnt = d.badcrcCnt) (hdrop : d'.dropCnt = d.dropCnt) :
    (stepTo d').CountsItsEvent d := .inl ⟨rfl, hbad, hdrop⟩

theorem dropFrame_countsItsEvent (d : Decoder) : (dropFrame d).CountsItsEvent d := .inr (.inr ⟨rfl, rfl, rfl⟩)

/-- The two ends of a check (R133): a match counts nothing, a mismatch counts in `badcrc_cnt`. -/
theorem checked_countsItsEvent (d : Decoder) (b : Byte) : DecStep.CountsItsEvent d
    (if (d.checked b).calcCrc = (d.checked b).rxCrc then acceptFrame (d.checked b) else rejectFrame (d.checked b)) := by
  split
  · exact .inl ⟨rfl, rfl, rfl⟩
  · exact .inr (.inl ⟨rfl, rfl, rfl⟩)

/-- Only a structural restart and a failed check record an event. -/
theorem decStep_countsItsEvent {c : Config} {b : Byte} {d : Decoder} {r : DecStep} (h : decStep c b d = .ok r) :
    r.CountsItsEvent d := by
  rw [decStep] at h
  cases hd : d.dstate with rw [hd] at h
  | sync1 | sync2 | sync3 => cases h; apply stepTo_countsItsEvent <;> split <;> rfl
  | ck1 | ck2 | ck3 => cases h; exact stepTo_countsItsEvent rfl rfl
  | hdrlen =>
    cases h
    rw [stepHdrlen]
    split
    · exact dropFrame_countsItsEvent d
    · exact stepTo_countsItsEvent rfl rfl
  | hdr =>
    rcases stepHdr_ok h with ⟨_, rfl⟩ | ⟨_, rfl⟩
    · exact dropFrame_countsItsEvent d
    · apply stepTo_countsItsEvent <;> split <;> rfl
  | pay =>
    rcases stepPay_ok h with ⟨_, rfl⟩ | ⟨_, rfl⟩
    · exact dropFrame_countsItsEvent d
    · apply stepTo_countsItsEvent <;> split <;> rfl
  | ck4 =>
    obtain ⟨-, -, rfl⟩ := stepCk4_ok h
    exact checked_countsItsEvent d b

/-- A decoder step records no error of R241 to R243. -/
theorem decStep_event {c : Config} {b : Byte} {d : Decoder} {r : DecStep} {k : Event} (h : decStep c b d = .ok r)
    (hk : r.event = some k) : k = .badChecksum ∨ k = .frameDrop := by
  rcases decStep_countsItsEvent h with ⟨he, -⟩ | ⟨he, -⟩ | ⟨he, -⟩ <;> cases he.symm.trans hk
  · exact .inl rfl
  · exact .inr rfl

/-! ## Errors are precise (R249) -/

/-- An error that an operation puts out was raised by it; the other two events are the decoder's (R240). -/
theorem raisedBy_of_event {i : Instr} {s t : State} {k : Event} (h : exec i s = .next t) (hk : t.out.event = some k)
    (hbad : k ≠ .badChecksum) (hdrop : k ≠ .frameDrop) : raisedBy s i = some k := by
  cases exec_effect h with
  | raises hi => cases hk; exact hi
  | decodes hr => exact ((decStep_event hr hk).elim hbad hdrop).elim
  | _ => cases hk

/-- An operation that puts out an error leaves what a raise leaves. -/
theorem eq_raise_of_event {i : Instr} {s t : State} {k : Event} (h : exec i s = .next t) (hk : t.out.event = some k)
    (hbad : k ≠ .badChecksum) (hdrop : k ≠ .frameDrop) : t = s.raise k :=
  Host.Outcome.next.inj (h.symm.trans (exec_of_raisedBy (raisedBy_of_event h hk hbad hdrop)))

theorem event_of_raisedBy {i : Instr} {s t : State} {k : Event} (h : exec i s = .next t) (hk : raisedBy s i = some k) :
    t.out.event = some k := by
  cases h.symm.trans (exec_of_raisedBy hk)
  rfl

/-- The sticky bit of a kind; the two events of the decoder have none (R35, R240). -/
def Sticky.bit (f : Sticky) : Event → Bool
  | .illegalAccess => f.illop
  | .busyReject => f.busy
  | .overflowCmd => f.cmdovf
  | .overflowPat => f.patovf
  | .badChecksum | .frameDrop => false

@[simp] theorem Sticky.bit_reset (e : Event) : Sticky.reset.bit e = false := by cases e <;> rfl

/-- Recording one kind sets the bit of no other. -/
theorem Sticky.eq_of_bit_record {f : Sticky} {k e : Event} (hf : f.bit e = false) (hr : (f.record k).bit e = true) : k = e := by
  obtain ⟨hillop, hcmd, hpat, hbusy⟩ := Sticky.record_bits k f
  have hne := ne_true_of_eq_false hf
  cases e with
  | illegalAccess => exact (hillop.1 hr).resolve_left hne
  | busyReject => exact (hbusy.1 hr).resolve_left hne
  | overflowCmd => exact (hcmd.1 hr).resolve_left hne
  | overflowPat => exact (hpat.1 hr).resolve_left hne
  | badChecksum | frameDrop => cases hr

/-- A sticky bit that rises was set by an operation that raised its error. -/
theorem event_of_bit_rises {i : Instr} {s t : State} {e : Event} (h : exec i s = .next t)
    (hs : s.block.sticky.bit e = false) (ht : t.block.sticky.bit e = true) : t.out.event = some e := by
  by_cases hc : i = .ctlClrerr ∨ i = .ctlReset
  · have hreset : t.block.sticky = Sticky.reset := by rcases hc with rfl | rfl <;> cases h <;> rfl
    simp [hreset] at ht
  · obtain ⟨hclr, hrst⟩ := not_or.1 hc
    rw [exec_sticky h hclr hrst] at ht
    cases hk : raisedBy s i with rw [hk] at ht
    | none => exact absurd (hs.symm.trans ht) Bool.false_ne_true
    | some k =>
      obtain rfl := Sticky.eq_of_bit_record hs ht
      exact event_of_raisedBy h hk

/-- Settles O52: the four errors leave what a raise leaves, and each of the four bits rises with its error only. -/
theorem errorsArePrecise : Obligations.ErrorsArePrecise := fun _ _ _ h =>
  ⟨fun hk => eq_raise_of_event h hk nofun nofun, fun hk => eq_raise_of_event h hk nofun nofun,
    fun hk => eq_raise_of_event h hk nofun nofun, fun hk => eq_raise_of_event h hk nofun nofun,
    event_of_bit_rises (e := .illegalAccess) h, event_of_bit_rises (e := .busyReject) h,
    event_of_bit_rises (e := .overflowCmd) h, event_of_bit_rises (e := .overflowPat) h⟩

/-! ## Priority (R248) -/

/-- A write to a byte-form or tries-form register with a reserved bit set matches no legal row (R82, R86). -/
theorem decode_reserved {a : Byte} {d : Word} (ha : a ∈ byteFormOffsets) (hd : reservedHigh24 d ≠ 0) :
    decode (tword true a d) = .wrIllegal a d := by
  have hu : unmatched (tword true a d) = true := by
    rw [unmatched_write, illegalWrite_byteForm ha]
    exact bne_iff_ne.2 hd
  rw [decode_of_unmatched hu, fallback_write]

/-- An overflow is raised outside WAIT only: in WAIT the busy rule comes first. -/
theorem not_wait_of_overflow {i : Instr} {s t : State} (h : exec i s = .next t)
    (hk : t.out.event = some .overflowCmd ∨ t.out.event = some .overflowPat) : s.block.arb.astate ≠ .wait := by
  rcases hk with hk | hk
  · exact (raisedBy_overflowCmd.1 (raisedBy_of_event h hk nofun nofun)).1
  · exact (raisedBy_overflowPat.1 (raisedBy_of_event h hk nofun nofun)).1

/-- The operation that completes a frame is a DEC.BYTE, which leaves the arbiter alone. -/
theorem arb_eq_of_frameDone {i : Instr} {s t : State} (h : exec i s = .next t) (hf : t.out.frameDone = true) :
    t.block.arb = s.block.arb := by
  obtain ⟨b, rfl, -⟩ := (exec_frameDone h).1 hf
  obtain ⟨r, -, rfl⟩ := consumeByte_ok (outcome_eq_next.1 h)
  rfl

/-- Settles O53: a reserved bit decodes to WR.ILLEGAL in every state, the busy rule comes before the capacity check, and
what the decoder records and pulses is its own. -/
theorem errorPriorityWithinOneOperation : Obligations.ErrorPriorityWithinOneOperation := by
  refine ⟨fun s a d ha hd => ?_, fun s b hw => ⟨exec_busyReject (busyOr_wait _ hw), exec_busyReject (busyOr_wait _ hw)⟩,
    fun _ _ _ => not_wait_of_overflow, fun b s t h => ?_, fun i s t h hf => ?_⟩
  · rw [decode_reserved ha hd]
    exact exec_wrIllegal a d s
  · obtain ⟨r, hr, rfl⟩ := consumeByte_ok (outcome_eq_next.1 h)
    exact decStep_countsItsEvent hr
  · rw [State.arbDone, State.arbDone, arb_eq_of_frameDone h hf]

end Sys2Proof.Machine
end

section
/-! SUPPORT. The encoder and the decoder are inverse to each other (R80 to R92): register by register, what a write or a read
decodes to encodes back to the word, and a well-formed operation is read back from its word. -/

namespace Sys2Proof.Machine

open Sys2Proof

/-! ## From the operation to the word and back -/

theorem decode_byteData {a : Byte} {op : Byte → Instr} (h : ∀ d, decodeWrite a d = decodeByteForm op a d) (b : Byte) :
    decode (tword true a (byteData b)) = op b := by
  rw [decode_tword_write, h, decodeByteForm_byteData]

theorem decode_encode_wrIllegal {a : Byte} {d : Word} (h : (Instr.wrIllegal a d).wellFormed = true) :
    decode (encode (.wrIllegal a d)) = .wrIllegal a d := by
  have hu : unmatched (tword true a d) = true := (unmatched_write a d).trans h
  exact (decode_of_unmatched hu).trans (fallback_write a d)

theorem decode_encode_rdZero {a : Byte} (h : (Instr.rdZero a).wellFormed = true) : decode (encode (.rdZero a)) = .rdZero a := by
  have hu : unmatched (tword false a 0) = true := (unmatched_read a 0).trans h
  exact (decode_of_unmatched hu).trans (fallback_read a 0)

/-- Settles O1: a legal row's word decodes by the branch of its address, an operand of the byte, tries and buffer-select forms is
read back from its field, and no row takes the word of a well-formed fallback operation. -/
theorem decodeReadsBackEveryEncodedOperation : Obligations.DecodeReadsBackEveryEncodedOperation := by
  intro i hi
  cases i with
  | ctlReset | ctlDecrst | ctlClrerr | ctlClrcnt | arbStart | arbAbort | arbIoerr | arbClrcmd | arbClrpat
  | crcSeed | arbBudget | arbTick => exact decode_tword_write _ _
  | crcByte b | decByte b | arbTries b | arbCmd b | arbPat b | arbRx b => exact decode_byteData (fun _ => rfl) b
  | fbufSel buf idx => exact decode_fbufData buf idx
  | wrIllegal => exact decode_encode_wrIllegal hi
  | rdZero => exact decode_encode_rdZero hi
  | _ => exact decode_tword_read _ 0

/-! ## From the word to the operation and back -/

theorem encode_decodeByteForm {a : Byte} {op : Byte → Instr} (h : ∀ b, encode (op b) = tword true a (byteData b)) (d : Word) :
    encode (decodeByteForm op a d) = tword true a d := by
  unfold decodeByteForm
  split
  next hd => rw [h, byteData_operandByte hd]
  next => rfl

theorem bit_operandBuf (d : Word) : (operandBuf d).bit = d.getLsbD 16 := by
  unfold operandBuf
  cases d.getLsbD 16 <;> rfl

/-- Data with a zero reserved field is its buffer bit and its index (R85). -/
theorem fbufData_operands {d : Word} (h : reservedHigh15 d = 0) : fbufData (operandBuf d) (operandIndex d) = d := by
  apply BitVec.eq_of_getLsbD_eq
  intro i hi
  rw [fbufData_eq_fields, bit_operandBuf, BitVec.getLsbD_or, getLsbD_field, getLsbD_field, operandIndex,
    BitVec.getLsbD_extractLsb', BitVec.getLsbD_ofBool]
  rcases Nat.lt_trichotomy i 16 with hlt | rfl | hgt
  · simp [hi, hlt]
  · simp
  · have hbit := congrArg (BitVec.getLsbD · (i - 17)) h
    simp only [reservedHigh15, BitVec.getLsbD_extractLsb', show 17 + (i - 17) = i by omega, show i - 17 < 15 by omega] at hbit
    simp_all [show ¬ i < 16 by omega, show i - 16 ≠ 0 by omega]

theorem encode_decodeWrite_fbufSel (d : Word) : encode (decodeWrite 0x5C d) = tword true 0x5C d := by
  rw [decodeWrite_fbufSel]
  split
  next hd => exact congrArg (tword true 0x5C) (fbufData_operands hd)
  next => rfl

theorem encode_decodeCtrl (d : Word) : encode (decodeCtrl 0x10 d) = tword true 0x10 d := by
  unfold decodeCtrl
  split_ifs with h1 h2 h4 h8 <;> simp [encode, *]

theorem encode_decodeArbCtrl (d : Word) : encode (decodeArbCtrl 0x80 d) = tword true 0x80 d := by
  unfold decodeArbCtrl
  split_ifs with h01 h02 h04 h08 h10 <;> simp [encode, *]

theorem decodeWrite_of_unwritable {a : Byte} (d : Word) (ha : a ∉ writableOffsets) : decodeWrite a d = .wrIllegal a d := by
  simp only [writableOffsets, List.mem_cons, List.not_mem_nil, or_false, not_or] at ha
  simp only [decodeWrite, ha, if_false]

theorem decodeRead_of_unreadable {a : Byte} (ha : a ∉ readableOffsets) : decodeRead a = .rdZero a := by
  simp_all [decodeRead, readableOffsets]

/-- What a write decodes to encodes back to it, register by register (R82 to R85, R91). -/
theorem encode_decodeWrite (a : Byte) (d : Word) : encode (decodeWrite a d) = tword true a d := by
  by_cases ha : a ∈ writableOffsets
  · simp only [writableOffsets, List.mem_cons, List.not_mem_nil, or_false] at ha
    rcases ha with rfl | rfl | rfl | rfl | rfl | rfl | rfl | rfl | rfl | rfl | rfl | rfl
    · exact encode_decodeCtrl d
    · rfl
    · exact encode_decodeByteForm (op := .crcByte) (fun _ => rfl) d
    · exact encode_decodeByteForm (op := .decByte) (fun _ => rfl) d
    · exact encode_decodeWrite_fbufSel d
    · exact encode_decodeArbCtrl d
    · rfl
    · exact encode_decodeByteForm (op := .arbTries) (fun _ => rfl) d
    · exact encode_decodeByteForm (op := .arbCmd) (fun _ => rfl) d
    · exact encode_decodeByteForm (op := .arbPat) (fun _ => rfl) d
    · exact encode_decodeByteForm (op := .arbRx) (fun _ => rfl) d
    · rfl
  · rw [decodeWrite_of_unwritable d ha]
    rfl

/-- What a read decodes to encodes back to its address, the data field 0 (R87, R92). -/
theorem encode_decodeRead (a : Byte) : encode (decodeRead a) = tword false a 0 := by
  by_cases ha : a ∈ readableOffsets
  · have hrows : ∀ b ∈ readableOffsets, encode (decodeRead b) = tword false b 0 := by decide
    exact hrows a ha
  · rw [decodeRead_of_unreadable ha]
    rfl

/-- Settles O2: a write comes back whole, a read without its ignored data. -/
theorem encodeWritesBackEveryDecodedWord : Obligations.EncodeWritesBackEveryDecodedWord := by
  intro t
  rw [decode]
  cases hw : TWord.w t with
  | true =>
    calc encode (decodeWrite (TWord.a t) (TWord.d t))
        = tword (TWord.w t) (TWord.a t) (TWord.d t) := by rw [encode_decodeWrite, hw]
      _ = t := tword_eta t
  | false => exact encode_decodeRead (TWord.a t)

/-! ## What a word decodes to -/

/-- The direction of an operation is that of its word (R80). -/
theorem w_encode (i : Instr) : TWord.w (encode i) = i.isWrite := by cases i <;> exact TWord.w_tword _ _ _

/-- No row of the table has the mnemonic of a fallback row. -/
theorem opcodeTable_mnemonics : ∀ r ∈ opcodeTable, r.mnemonic ≠ "WR.ILLEGAL" ∧ r.mnemonic ≠ "RD.ZERO" := by decide

/-- Only the two fallback operations carry a condition (R81). -/
theorem wellFormed_of_mnemonic {i : Instr} (hw : i.mnemonic ≠ "WR.ILLEGAL") (hr : i.mnemonic ≠ "RD.ZERO") :
    i.wellFormed = true := by
  cases i with
  | wrIllegal => exact absurd rfl hw
  | rdZero => exact absurd rfl hr
  | _ => rfl

theorem wellFormed_fallback (t : TWord) : (fallback t).wellFormed = unmatched t := by
  unfold fallback unmatched
  cases TWord.w t <;> rfl

/-- An operation that takes its row of the table, or the fallback row with no row for the word, is well-formed. -/
theorem wellFormed_of_takesRow {t : TWord} {i : Instr} (h : TakesRow t i) : i.wellFormed = true := by
  rcases h with hrow | ⟨hu, rfl⟩
  · obtain ⟨hw, hr⟩ := opcodeTable_mnemonics _ hrow
    exact wellFormed_of_mnemonic hw hr
  · rw [wellFormed_fallback, hu]

/-- Settles O6: the operation takes its row or the fallback row, and its own word has the direction of the word read. -/
theorem everyWordDecodesToAWellFormedOperation : Obligations.EveryWordDecodesToAWellFormedOperation := by
  refine fun t => ⟨wellFormed_of_takesRow (decode_takesRow t), ?_⟩
  rw [← w_encode, encodeWritesBackEveryDecodedWord t]
  cases hw : TWord.w t <;> simp [hw]

/-- Settles O7: the ten words, each from its address, its direction and its data. -/
theorem writtenOutWordsDecodeRight : Obligations.WrittenOutWordsDecodeRight := by
  unfold Obligations.WrittenOutWordsDecodeRight
  decide

/-! ## The queue (R73) -/

/-- With a word at the head of the queue a step performs what it decodes to. -/
theorem step_queued (t : TWord) (s : State) (rest : List TWord) :
    step { s with bus := t :: rest } = exec (decode t) { s with bus := rest } := rfl

theorem step_idle (s : State) : step { s with bus := [] } = .next { s with bus := [] } := rfl

/-- Settles O8: the word of a well-formed operation decodes to it. -/
theorem stepPerformsTheDecodedOperation : Obligations.StepPerformsTheDecodedOperation :=
  ⟨fun i s rest hi => by rw [step_queued, decodeReadsBackEveryEncodedOperation i hi], step_queued, step_idle⟩

/-- The machine with the queue `q` (log entry 1). -/
def State.withBus (q : List TWord) (s : State) : State := { s with bus := q }

/-- What an operation answers, on a machine with the queue `q`. -/
def onBus (q : List TWord) : Result → Result
  | .next t => .next (t.withBus q)
  | .fault f => .fault f
  | .refused r => .refused r

theorem outcome_map_withBus (q : List TWord) (x : Except Fault State) :
    outcome (x.map (State.withBus q)) = onBus q (outcome x) := by
  cases x <;> rfl

section

variable {q : List TWord} {s : State} {run run' : Except Fault State} (h : run' = run.map (State.withBus q))
include h

theorem unlessWaiting_withBus : outcome (unlessWaiting (s.withBus q) run') = onBus q (outcome (unlessWaiting s run)) := by
  subst h
  rw [← outcome_map_withBus]
  by_cases hw : s.block.arb.astate = .wait
  · rw [unlessWaiting_wait run hw]
    exact congrArg outcome (unlessWaiting_wait (s := s.withBus q) _ hw)
  · rw [unlessWaiting_free run hw]
    exact congrArg outcome (unlessWaiting_free (s := s.withBus q) _ hw)

theorem onlyWaiting_withBus : outcome (onlyWaiting (s.withBus q) run') = onBus q (outcome (onlyWaiting s run)) := by
  subst h
  rw [← outcome_map_withBus]
  by_cases hw : s.block.arb.astate = .wait
  · rw [onlyWaiting_wait run hw]
    exact congrArg outcome (onlyWaiting_wait (s := s.withBus q) _ hw)
  · rw [onlyWaiting_free run hw]
    exact congrArg outcome (onlyWaiting_free (s := s.withBus q) _ hw)

end

theorem exec_decByte_withBus (b : Byte) (q : List TWord) (s : State) :
    exec (.decByte b) (s.withBus q) = onBus q (exec (.decByte b) s) := by
  simp only [exec, execDecByte, consumeByte, State.withBus]
  cases decStep s.cfg b s.block.dec <;> rfl

theorem ite_map_withBus {q : List TWord} {p : Prop} [Decidable p] {x x' y y' : Except Fault State}
    (hx : x' = x.map (State.withBus q)) (hy : y' = y.map (State.withBus q)) :
    (if p then x' else y') = (if p then x else y).map (State.withBus q) := by
  split
  · exact hx
  · exact hy

theorem exec_arbStart_withBus (q : List TWord) (s : State) : exec .arbStart (s.withBus q) = onBus q (exec .arbStart s) := by
  refine unlessWaiting_withBus ?_
  simp only [send, State.setArb, State.withBus]
  cases loadSpan .cmd s.cfg.cmdCap s.block.arb.cmdLen.toNat s.block.arb.cmd <;> rfl

theorem exec_arbCmd_withBus (b : Byte) (q : List TWord) (s : State) :
    exec (.arbCmd b) (s.withBus q) = onBus q (exec (.arbCmd b) s) := by
  refine unlessWaiting_withBus (ite_map_withBus rfl ?_)
  simp only [State.withBus]
  cases storeByte .cmd s.cfg.cmdCap s.block.arb.cmdLen.toNat b s.block.arb.cmd <;> rfl

theorem exec_arbPat_withBus (b : Byte) (q : List TWord) (s : State) :
    exec (.arbPat b) (s.withBus q) = onBus q (exec (.arbPat b) s) := by
  refine unlessWaiting_withBus (ite_map_withBus rfl ?_)
  simp only [State.withBus]
  cases storeByte .pat s.cfg.patCap s.block.arb.patLen.toNat b s.block.arb.pat <;> rfl

theorem exec_arbRx_withBus (b : Byte) (q : List TWord) (s : State) :
    exec (.arbRx b) (s.withBus q) = onBus q (exec (.arbRx b) s) := by
  refine onlyWaiting_withBus ?_
  simp only [State.withBus]
  cases loadSpan .pat s.cfg.patCap s.block.arb.patLen.toNat s.block.arb.pat with
  | error => rfl
  | ok p => exact ite_map_withBus rfl rfl

theorem exec_arbTick_withBus (d : Word) (q : List TWord) (s : State) :
    exec (.arbTick d) (s.withBus q) = onBus q (exec (.arbTick d) s) := by
  refine onlyWaiting_withBus (ite_map_withBus (ite_map_withBus ?_ rfl) rfl)
  simp only [send, State.setArb, State.withBus]
  cases loadSpan .cmd s.cfg.cmdCap s.block.arb.cmdLen.toNat s.block.arb.cmd <;> rfl

/-- No operation reads or writes the queue (R22, R73). -/
theorem exec_withBus (i : Instr) (q : List TWord) (s : State) : exec i (s.withBus q) = onBus q (exec i s) := by
  cases i with
  | decByte b => exact exec_decByte_withBus b q s
  | arbStart => exact exec_arbStart_withBus q s
  | arbCmd b => exact exec_arbCmd_withBus b q s
  | arbPat b => exact exec_arbPat_withBus b q s
  | arbRx b => exact exec_arbRx_withBus b q s
  | arbTick d => exact exec_arbTick_withBus d q s
  | arbClrcmd | arbClrpat | arbBudget | arbTries => exact unlessWaiting_withBus rfl
  | arbAbort | arbIoerr => exact onlyWaiting_withBus rfl
  | _ => rfl

/-- A run of the core is a step and, if it answers a state, the run from there. -/
theorem run_succ_of_next {s t : State} (h : step s = .next t) (n : Nat) :
    Host.Core.run core (n + 1) s = Host.Core.run core n t := by
  simp only [Host.Core.run, show core.step s = .next t from h]

theorem run_succ_of_fault {s : State} {f : Fault} (h : step s = .fault f) (n : Nat) :
    Host.Core.run core (n + 1) s = .fault f := by
  simp only [Host.Core.run, show core.step s = .fault f from h]

theorem run_succ_of_refused {s : State} {r : Refusal} (h : step s = .refused r) (n : Nat) :
    Host.Core.run core (n + 1) s = .refused r := by
  simp only [Host.Core.run, show core.step s = .refused r from h]

/-- Settles O9, by induction on the operations: each step takes one word off the queue, and its operation leaves the rest. -/
theorem queuedTransactionsRunInIssueOrder : Obligations.QueuedTransactionsRunInIssueOrder := by
  intro ops
  induction ops with
  | nil => exact fun _ _ _ => rfl
  | cons i ops ih =>
    intro s rest hwf
    obtain ⟨hi, hops⟩ := List.forall_mem_cons.1 hwf
    have hstep : step { s with bus := encode i :: (ops.map encode ++ rest) } = onBus (ops.map encode ++ rest) (exec i s) :=
      (stepPerformsTheDecodedOperation.1 i s _ hi).trans (exec_withBus i _ s)
    have hexec : exec i { s with bus := rest } = onBus rest (exec i s) := exec_withBus i rest s
    rw [List.length_cons, List.map_cons, List.cons_append, runOps, hexec]
    cases h : exec i s with rw [h] at hstep
    | next t => exact (run_succ_of_next hstep _).trans (ih t rest hops)
    | fault f => exact run_succ_of_fault hstep _
    | refused r => exact run_succ_of_refused hstep _

end Sys2Proof.Machine
end

section
/-! SUPPORT. The CRC function (R100 to R108): a shift is linear and reversible, so a fold of bytes is linear in the seed and the
bytes and no two seeds give one value. The CRC unit's operations fold the bytes they are given (R105). -/

namespace Sys2Proof.Machine

open Sys2Proof

/-! ## The shift (R100) -/

/-- The shift with the conditional part written as a value that is exclusive-ored in. -/
theorem crcShift_eq_xor (t : Word) : crcShift t = (t >>> 1) ^^^ if t.getLsbD 0 then crcPoly else 0 := by
  unfold crcShift
  split <;> simp

theorem crcShift_xor (a b : Word) : crcShift (a ^^^ b) = crcShift a ^^^ crcShift b := by
  have hpoly : (if (a ^^^ b).getLsbD 0 then crcPoly else 0) =
      (if a.getLsbD 0 then crcPoly else 0) ^^^ if b.getLsbD 0 then crcPoly else 0 := by
    rw [BitVec.getLsbD_xor]
    cases a.getLsbD 0 <;> cases b.getLsbD 0 <;> simp
  rw [crcShift_eq_xor, crcShift_eq_xor, crcShift_eq_xor, BitVec.ushiftRight_xor_distrib, hpoly]
  ac_rfl

/-- Bit 31 of a shifted value is the bit that was shifted out: the top bit of the polynomial is 1. -/
theorem getLsbD_crcShift_top (t : Word) : (crcShift t).getLsbD 31 = t.getLsbD 0 := by
  have hpoly : crcPoly.getLsbD 31 = true := by decide
  rw [crcShift_eq_xor, BitVec.getLsbD_xor, BitVec.getLsbD_ushiftRight]
  cases t.getLsbD 0 <;> simp [hpoly]

theorem crcShift_injective : Function.Injective crcShift := by
  intro a b h
  have hlow : a.getLsbD 0 = b.getLsbD 0 := by
    rw [← getLsbD_crcShift_top a, h, getLsbD_crcShift_top]
  have hhigh : a >>> 1 = b >>> 1 := by
    rw [crcShift_eq_xor, crcShift_eq_xor, hlow] at h
    exact (BitVec.xor_left_inj _).1 h
  apply BitVec.eq_of_getLsbD_eq
  intro i hi
  cases i with
  | zero => exact hlow
  | succ i => simpa [Nat.add_comm] using congrArg (BitVec.getLsbD · i) hhigh

/-- A shift of an even value is a plain shift. -/
theorem crcShifts_of_low_zero : ∀ (n : Nat) (t : Word), (∀ i, i < n → t.getLsbD i = false) → crcShifts n t = t >>> n
  | 0, t, _ => (BitVec.ushiftRight_zero t).symm
  | n + 1, t, h => by
    have hshift : crcShift t = t >>> 1 := by rw [crcShift, h 0 (Nat.succ_pos n), if_neg Bool.false_ne_true]
    have hrest : ∀ i, i < n → (t >>> 1).getLsbD i = false := fun i hi => by
      rw [BitVec.getLsbD_ushiftRight]
      exact h (1 + i) (by omega)
    rw [crcShifts, hshift, crcShifts_of_low_zero n _ hrest, ← BitVec.shiftRight_add, Nat.add_comm]

theorem crcShifts_xor (n : Nat) (a b : Word) : crcShifts n (a ^^^ b) = crcShifts n a ^^^ crcShifts n b := by
  induction n generalizing a b with
  | zero => rfl
  | succ n ih => rw [crcShifts, crcShift_xor, ih, crcShifts, crcShifts]

theorem crcShifts_injective (n : Nat) : Function.Injective (crcShifts n) := by
  rw [show crcShifts n = crcShift^[n] from funext (crcShifts_eq_iterate n)]
  exact crcShift_injective.iterate n

/-! ## One byte -/

theorem zeroExtend_xor (a b : Byte) : (a ^^^ b).zeroExtend 32 = a.zeroExtend 32 ^^^ b.zeroExtend 32 := BitVec.setWidth_xor

/-- Folding a byte is linear over exclusive-or (R107 (c)). -/
theorem crc32Byte_xor (a b : Word) (x y : Byte) : crc32Byte (a ^^^ b) (x ^^^ y) = crc32Byte a x ^^^ crc32Byte b y := by
  have hpairs : a ^^^ b ^^^ (x.zeroExtend 32 ^^^ y.zeroExtend 32) = a ^^^ x.zeroExtend 32 ^^^ (b ^^^ y.zeroExtend 32) := by
    ac_rfl
  rw [crc32Byte, zeroExtend_xor, hpairs, crcShifts_xor]
  rfl

theorem crc32Byte_zero : crc32Byte 0 0 = 0 := by decide

/-- No two values give one value with the same byte. -/
theorem crc32Byte_injective_value (b : Byte) : Function.Injective (crc32Byte · b) := fun _ _ h =>
  (BitVec.xor_left_inj _).1 (crcShifts_injective 8 h)

/-- No two bytes give one value from the same value. -/
theorem crc32Byte_injective_byte (c : Word) : Function.Injective (crc32Byte c) := by
  intro x y h
  have hwide : x.zeroExtend 32 = y.zeroExtend 32 := (BitVec.xor_right_inj _).1 (crcShifts_injective 8 h)
  simpa using congrArg (BitVec.setWidth 8) hwide

/-- The table form (R107 (d)): the low byte of the value meets the byte, and the rest only moves down. -/
theorem crc32Byte_table (c : Word) (b : Byte) : crc32Byte c b = (c >>> 8) ^^^ crc32Byte 0 (c.extractLsb' 0 8 ^^^ b) := by
  have hsplit : c ^^^ b.zeroExtend 32 =
      (c ^^^ (c.extractLsb' 0 8).zeroExtend 32) ^^^ (0 ^^^ (c.extractLsb' 0 8 ^^^ b).zeroExtend 32) := by
    rw [zeroExtend_xor, BitVec.ofNat_eq_ofNat, BitVec.zero_xor, ← BitVec.xor_assoc, BitVec.xor_assoc c, BitVec.xor_self, BitVec.xor_zero]
  have hlow : ∀ i, i < 8 → (c ^^^ (c.extractLsb' 0 8).zeroExtend 32).getLsbD i = false := fun i hi => by
    simp [hi, show i < 32 by omega]
  have hhigh : (c ^^^ (c.extractLsb' 0 8).zeroExtend 32) >>> 8 = c >>> 8 := by
    apply BitVec.eq_of_getLsbD_eq
    intro i hi
    simp
  calc crc32Byte c b
      = crcShifts 8 (c ^^^ (c.extractLsb' 0 8).zeroExtend 32) ^^^ crc32Byte 0 (c.extractLsb' 0 8 ^^^ b) := by
        rw [crc32Byte, hsplit, crcShifts_xor, crc32Byte]
    _ = _ := by rw [crcShifts_of_low_zero 8 _ hlow, hhigh]

/-! ## A block -/

theorem crc32Block_append (seed : Word) (l r : List Byte) : crc32Block seed (l ++ r) = crc32Block (crc32Block seed l) r :=
  List.foldl_append

theorem crc32Block_cons (seed : Word) (b : Byte) (bs : List Byte) :
    crc32Block seed (b :: bs) = crc32Block (crc32Byte seed b) bs := rfl

theorem crc32Frame_eq_block (h p : List Byte) : crc32Frame h p = crc32Block 0 (h ++ p) := (crc32Block_append 0 h p).symm

theorem crc32Block_zeros (n : Nat) : crc32Block 0 (List.replicate n 0) = 0 := by
  induction n with
  | zero => rfl
  | succ n ih => rw [List.replicate_succ, crc32Block_cons, crc32Byte_zero, ih]

/-- A block is linear over exclusive-or, for equal lengths (R107 (c)). -/
theorem crc32Block_xor : ∀ (s t : List Byte) (a b : Word), s.length = t.length →
    crc32Block (a ^^^ b) (List.zipWith (· ^^^ ·) s t) = crc32Block a s ^^^ crc32Block b t
  | [], [], _, _, _ => rfl
  | x :: s, y :: t, a, b, h => by
    rw [List.zipWith_cons_cons, crc32Block_cons, crc32Byte_xor, crc32Block_xor s t _ _ (Nat.succ.inj h)]
    rfl

/-- No two seeds give one value over the same bytes. -/
theorem crc32Block_injective_seed (bs : List Byte) : Function.Injective (crc32Block · bs) := by
  induction bs with
  | nil => exact fun _ _ h => h
  | cons b bs ih => exact fun _ _ h => crc32Byte_injective_value b (ih h)

/-- The values of the eight one-bit bytes; the first is R104's example. -/
theorem crc32Byte_one_bit : crc32Byte 0 0x01 = 0x77073096 ∧ crc32Byte 0 0x02 = 0xEE0E612C ∧ crc32Byte 0 0x04 = 0x076DC419 ∧
    crc32Byte 0 0x08 = 0x0EDB8832 ∧ crc32Byte 0 0x10 = 0x1DB71064 ∧ crc32Byte 0 0x20 = 0x3B6E20C8 ∧
    crc32Byte 0 0x40 = 0x76DC4190 ∧ crc32Byte 0 0x80 = 0xEDB88320 := by decide

/-- The check value of "123456789" from both seeds (R108). -/
theorem crc32Block_check :
    crc32Block 0 [0x31, 0x32, 0x33, 0x34, 0x35, 0x36, 0x37, 0x38, 0x39] = 0x2DFD2D88 ∧
    crc32Block 0xFFFFFFFF [0x31, 0x32, 0x33, 0x34, 0x35, 0x36, 0x37, 0x38, 0x39] = 0x340BC6D9 := by decide +kernel

/-- Settles O18: the laws follow from the linear shift, the values by computing them. -/
theorem crcFunctionObeysItsLaws : Obligations.CrcFunctionObeysItsLaws :=
  ⟨crc32Byte_eq_iterate, fun seed bs b => crc32Block_append seed bs [b], fun _ => rfl, crc32Block_zeros,
    fun a b s t h => crc32Block_xor s t a b h, crc32Byte_table, crc32Frame_eq_block, crc32Byte_one_bit, crc32Block_check⟩

/-- Settles O19: after the common beginning the changed byte gives another value, and the common suffix keeps values apart. -/
theorem oneChangedByteChangesTheCrc : Obligations.OneChangedByteChangesTheCrc := by
  intro seed l r x y hne heq
  rw [crc32Block_append, crc32Block_append, crc32Block_cons, crc32Block_cons] at heq
  exact hne (crc32Byte_injective_byte _ (crc32Block_injective_seed r heq))

/-! ## CRC.BLOCK (R105) -/

/-- CRC.BYTE operations and a read of the register fold the bytes in order and return the result. -/
theorem runOps_crcBytes_read : ∀ (bs : List Byte) (s : State), runOps (bs.map .crcByte ++ [.rdCrcVal]) s =
    .next (State.readBack { s with block := { s.block with crc := crc32Block s.block.crc bs } } (crc32Block s.block.crc bs))
  | [], _ => rfl
  | b :: bs, s => runOps_crcBytes_read bs (s.wrote { s.block with crc := crc32Byte s.block.crc b })

theorem runOps_crcBlock (seed : Word) (bs : List Byte) (s : State) : runOps (crcBlockOps seed bs) s =
    .next (State.readBack { s with block := { s.block with crc := crc32Block seed bs } } (crc32Block seed bs)) :=
  runOps_crcBytes_read bs (s.wrote { s.block with crc := seed })

/-- CRC.BYTE operations alone go on in every state. -/
theorem runOps_crcBytes : ∀ (bs : List Byte) (s : State),
    ∃ t, runOps (bs.map .crcByte) s = .next t ∧ t.block.crc = crc32Block s.block.crc bs
  | [], s => ⟨s, rfl, rfl⟩
  | b :: bs, s => runOps_crcBytes bs (s.wrote { s.block with crc := crc32Byte s.block.crc b })

/-- Every operation but CRC.SEED and CTL.RESET folds its CRC.BYTE operand, if it has one, into the register (R104). -/
theorem exec_crc {i : Instr} {s t : State} (h : exec i s = .next t) (hreset : i ≠ .ctlReset) (hseed : ∀ v, i ≠ .crcSeed v) :
    t.block.crc = crc32Block s.block.crc (crcOperand i).toList := by
  cases i with
  | crcByte b => cases h; rfl
  | crcSeed v => exact absurd rfl (hseed v)
  | ctlReset => exact absurd rfl hreset
  | _ =>
    cases exec_effect h with
    | writesCrc v hi => simp at hi
    | _ => rfl

/-- A run that answers a state is its first operation and the run from the state that one answers. -/
theorem runOps_cons_next {i : Instr} {is : List Instr} {s t : State} (h : runOps (i :: is) s = .next t) :
    ∃ u, exec i s = .next u ∧ runOps is u = .next t := by
  rw [runOps] at h
  cases hi : exec i s with rw [hi] at h
  | next u => exact ⟨u, rfl, h⟩
  | fault | refused => cases h

/-- Along a run without CRC.SEED and CTL.RESET the register is the fold of the CRC.BYTE operands. -/
theorem runOps_crc : ∀ (ops : List Instr) (s t : State), (∀ i ∈ ops, i ≠ .ctlReset ∧ ∀ v, i ≠ .crcSeed v) →
    runOps ops s = .next t → t.block.crc = crc32Block s.block.crc (ops.filterMap crcOperand)
  | [], s, t, _, h => by cases h; rfl
  | i :: ops, s, t, hops, h => by
    obtain ⟨⟨hreset, hseed⟩, hrest⟩ := List.forall_mem_cons.1 hops
    obtain ⟨u, hu, ht⟩ := runOps_cons_next h
    have hoperands : (i :: ops).filterMap crcOperand = (crcOperand i).toList ++ ops.filterMap crcOperand := by
      rw [List.filterMap_cons]
      cases crcOperand i <;> rfl
    rw [hoperands, crc32Block_append, ← exec_crc hu hreset hseed]
    exact runOps_crc ops u t hrest ht

/-- Settles O17: by induction on the bytes, with other units' operations between them by induction on the operations. -/
theorem crcBlockComputesTheBlockFunction : Obligations.CrcBlockComputesTheBlockFunction := by
  refine ⟨runOps_crcBlock, fun seed ops s t hops h => ?_, fun h p s => ?_⟩
  · have hcrc : t.block.crc = crc32Block seed (ops.filterMap crcOperand) :=
      runOps_crc ops (s.wrote { s.block with crc := seed }) t hops h
    exact ⟨hcrc, by rw [exec_rdCrcVal, hcrc]⟩
  · rw [runOps_append _ _ (runOps_crcBlock 0 h s)]
    exact runOps_crcBytes p _

end Sys2Proof.Machine
end

section
/-! SUPPORT. Facts about single registers and limits: what reset puts out (R59), the fields of the capability registers over the
legal ranges (R39 to R42), and the bounds of the time limit (R171). -/

namespace Sys2Proof.Machine

open Sys2Proof

/-! ## Reset (R59) -/

/-- The four capability reads answer with one value for the build, the same in every state (R220 to R223). -/
theorem exec_rdCaps {i : Instr} (hi : i ∈ [Instr.rdCaps0, .rdCaps1, .rdCaps2, .rdCaps3]) {s t : State} (hcfg : t.cfg = s.cfg) :
    ∃ v, exec i s = .next (s.readBack v) ∧ exec i t = .next (t.readBack v) := by
  simp only [List.mem_cons, List.not_mem_nil, or_false] at hi
  rcases hi with rfl | rfl | rfl | rfl
  · exact ⟨caps0 s.cfg, exec_rdCaps0 s, by rw [exec_rdCaps0, hcfg]⟩
  · exact ⟨caps1 s.cfg, exec_rdCaps1 s, by rw [exec_rdCaps1, hcfg]⟩
  · exact ⟨caps2 s.cfg, exec_rdCaps2 s, by rw [exec_rdCaps2, hcfg]⟩
  · exact ⟨caps3 s.cfg, exec_rdCaps3 s, by rw [exec_rdCaps3, hcfg]⟩

/-- Settles O11: CTL.RESET writes the reset block, in which no level output is set, and keeps the parameters. -/
theorem resetIsSilentAndLeavesTheCapabilities : Obligations.ResetIsSilentAndLeavesTheCapabilities :=
  ⟨⟨rfl, rfl, rfl, rfl⟩, fun s => ⟨_, exec_ctlReset s, rfl, rfl, rfl, rfl, rfl, fun _ hi => exec_rdCaps hi rfl⟩⟩

/-! ## The capability fields (R39 to R42) -/

/-- A parameter inside the range of its field is that field. -/
theorem natField_eq_field {n w : Nat} (pos : Nat) (hn : n < 2 ^ w) (hw : w ≤ 32) : natField n pos = field (BitVec.ofNat w n) pos := by
  rw [natField, field]
  congr 1
  apply BitVec.eq_of_toNat_eq
  rw [BitVec.toNat_setWidth_of_le hw, BitVec.toNat_ofNat, BitVec.toNat_ofNat, Nat.mod_eq_of_lt hn,
    Nat.mod_eq_of_lt (hn.trans_le (Nat.pow_le_pow_right Nat.two_pos hw))]

theorem toNat_ofNat_of_lt {n w : Nat} (hn : n < 2 ^ w) : (BitVec.ofNat w n).toNat = n := by
  rw [BitVec.toNat_ofNat, Nat.mod_eq_of_lt hn]

theorem caps0_fields {c : Config} (hh : c.hdrCap < 2 ^ 8) (hp : c.payCap < 2 ^ 16) :
    (caps0 c).extractLsb' 0 8 = BitVec.ofNat 8 c.hdrCap ∧ (caps0 c).extractLsb' 8 16 = BitVec.ofNat 16 c.payCap ∧
    (caps0 c).extractLsb' 24 8 = 0 := by
  rw [caps0, natField_eq_field 0 hh (by decide), natField_eq_field 8 hp (by decide)]
  simp [BitVec.extractLsb'_or, extractLsb'_field_same, extractLsb'_field_other]

theorem caps1_fields {c : Config} (hc : c.cmdCap < 2 ^ 8) (hp : c.patCap < 2 ^ 8) :
    (caps1 c).extractLsb' 0 8 = BitVec.ofNat 8 c.cmdCap ∧ (caps1 c).extractLsb' 8 8 = BitVec.ofNat 8 c.patCap ∧
    (caps1 c).extractLsb' 16 16 = 0 := by
  rw [caps1, natField_eq_field 0 hc (by decide), natField_eq_field 8 hp (by decide)]
  simp [BitVec.extractLsb'_or, extractLsb'_field_same, extractLsb'_field_other]

theorem caps3_fields {c : Config} (hid : c.msgidOffset < 2 ^ 8) (hlen : c.msglenOffset < 2 ^ 8) (hmin : c.hdrMinLen < 2 ^ 8) :
    (caps3 c).extractLsb' 0 8 = BitVec.ofNat 8 c.msgidOffset ∧ (caps3 c).extractLsb' 8 8 = BitVec.ofNat 8 c.msglenOffset ∧
    (caps3 c).extractLsb' 16 8 = BitVec.ofNat 8 c.hdrMinLen ∧ (caps3 c).extractLsb' 24 8 = 0 := by
  rw [caps3, natField_eq_field 0 hid (by decide), natField_eq_field 8 hlen (by decide), natField_eq_field 16 hmin (by decide)]
  simp [BitVec.extractLsb'_or, extractLsb'_field_same, extractLsb'_field_other]

/-- Settles O13: the legal ranges are inside the fields, so each field reads back as its parameter. -/
theorem capabilityFieldsReportEveryLegalParameter : Obligations.CapabilityFieldsReportEveryLegalParameter := by
  rintro c ⟨⟨hmin, hh⟩, ⟨-, hp⟩, ⟨-, hid⟩, ⟨-, hlen⟩, -, ⟨-, hcmd⟩, ⟨-, hpat⟩, ⟨-, hmult⟩⟩
  have hh8 : c.hdrCap < 2 ^ 8 := by omega
  have hp16 : c.payCap < 2 ^ 16 := by omega
  have hid8 : c.msgidOffset < 2 ^ 8 := by omega
  have hlen8 : c.msglenOffset < 2 ^ 8 := by omega
  have hmin8 : c.hdrMinLen < 2 ^ 8 := by omega
  have hcmd8 : c.cmdCap < 2 ^ 8 := by omega
  have hpat8 : c.patCap < 2 ^ 8 := by omega
  obtain ⟨hcaps0h, hcaps0p, hcaps0⟩ := caps0_fields hh8 hp16
  obtain ⟨hcaps1c, hcaps1p, hcaps1⟩ := caps1_fields hcmd8 hpat8
  obtain ⟨hcaps3id, hcaps3len, hcaps3min, hcaps3⟩ := caps3_fields hid8 hlen8 hmin8
  rw [hcaps0h, hcaps0p, hcaps1c, hcaps1p, hcaps3id, hcaps3len, hcaps3min, caps2_eq]
  exact ⟨toNat_ofNat_of_lt hh8, toNat_ofNat_of_lt hp16, hcaps0, toNat_ofNat_of_lt hcmd8, toNat_ofNat_of_lt hpat8, hcaps1,
    toNat_ofNat_of_lt hmult, toNat_ofNat_of_lt hid8, toNat_ofNat_of_lt hlen8, toNat_ofNat_of_lt hmin8, hcaps3⟩

/-! ## The time limit (R171) -/

/-- At every legal multiplier the exact product is at most the square of the largest 32-bit number. -/
theorem timeLimit_le {c : Config} (hc : c.Legal) (v : Word) : timeLimit c v ≤ (2 ^ 32 - 1) ^ 2 := by
  obtain ⟨-, -, -, -, -, -, -, -, hmult⟩ := hc
  rw [pow_two]
  exact Nat.mul_le_mul (Nat.le_pred_of_lt v.isLt) (Nat.le_pred_of_lt hmult)

theorem timeLimit_eq_product {c : Config} (hc : c.Legal) (v : Word) :
    timeLimit c v = (v.zeroExtend 64 * (BitVec.ofNat 32 c.timeoutMult).zeroExtend 64 : BitVec 64).toNat := by
  have hbound := timeLimit_le hc v
  obtain ⟨-, -, -, -, -, -, -, -, hmult⟩ := hc
  rw [timeLimit] at hbound ⊢
  rw [BitVec.toNat_mul, BitVec.toNat_setWidth_of_le (by decide), BitVec.toNat_setWidth_of_le (by decide),
    toNat_ofNat_of_lt hmult, Nat.mod_eq_of_lt (by omega)]

/-- Settles O43: the product of two numbers below `2^32` fits 64 bits; 1000 is below `2^10`. -/
theorem timeLimitNeverWraps : Obligations.TimeLimitNeverWraps := by
  refine ⟨fun c v hc => ⟨timeLimit_eq_product hc v, timeLimit_le hc v⟩, fun v => ?_⟩
  have hv := v.isLt
  change v.toNat * 1000 < 2 ^ 42
  omega

end Sys2Proof.Machine
end

section
/-! SUPPORT. The invariant of R37: it holds after reset, and in every state that meets it each operation answers a state that
meets it again. The decoder by the class of its state, the arbiter by its operations. -/

namespace Sys2Proof.Machine

open Sys2Proof

/-! ## Reset -/

theorem decoder_reset_inv (c : Config) : Decoder.reset.Inv c := by
  refine ⟨⟨Nat.zero_le _, nofun, nofun, fun _ => rfl, nofun, .inr rfl⟩, ⟨?_, nofun⟩, rfl, rfl⟩
  rintro (h | h) <;> cases h

theorem arbiter_reset_inv (c : Config) : Arbiter.reset.Inv c :=
  ⟨Nat.zero_le _, Nat.zero_le _, Nat.le_refl 1, Nat.le_refl 0, nofun, rfl, rfl⟩

/-- Nothing is stored and nothing is retained after reset. -/
theorem decoder_reset_frameInv (c : Config) : Decoder.reset.InFrame c ∧ Decoder.reset.RetainsFrame c := by
  refine ⟨⟨nofun, ?_⟩, nofun⟩
  rintro (h | h) <;> cases h

theorem resetOf_inv {c : Config} (hc : c.Legal) : (State.resetOf c).Inv ∧ (State.resetOf c).FrameInv :=
  ⟨⟨hc, decoder_reset_inv c, arbiter_reset_inv c⟩, decoder_reset_frameInv c⟩

theorem config_legal : config.Legal := by decide

/-- Settles O57: the reset block meets the invariants at every parameters. -/
theorem resetMeetsTheInvariants : Obligations.ResetMeetsTheInvariants := ⟨resetOf_inv config_legal, fun _ hc => resetOf_inv hc⟩

/-! ## The decoder's invariant by the class of its state -/

theorem six_le_hdrMinLen {c : Config} (hc : c.Legal) : 6 ≤ c.hdrMinLen := by
  obtain ⟨-, -, ⟨hid, -⟩, -⟩ := hc
  exact Nat.add_le_add_right (le_max_of_le_left hid) 2

section Classes

variable {c : Config} {d : Decoder}

theorem inv_of_beforeHeader (hd : d.dstate.beforeHeader = true) (hr : d.read = 0)
    (hlen : c.hdrMinLen ≤ d.hdrLen.toNat ∨ d.hdrLen = 0) (hh : Memory.wf c.hdrCap d.hdr = true)
    (hp : Memory.wf c.payCap d.pay = true) : d.Inv c := by
  cases hs : d.dstate with rw [hs] at hd
  | sync1 | sync2 | sync3 | hdrlen => simpa [hs, hr, hh, hp, Decoder.Inv, Decoder.Counts, Decoder.Fits, DState.beforeHeader, DState.inTrailer]
      using hlen
  | hdr | pay | ck1 | ck2 | ck3 | ck4 => cases hd

theorem inv_of_hdr (hd : d.dstate = .hdr) (h4 : 4 ≤ d.read.toNat) (hcap : d.read.toNat ≤ c.hdrCap)
    (hlt : d.read.toNat < d.hdrLen.toNat) (hlen : c.hdrMinLen ≤ d.hdrLen.toNat ∨ d.hdrLen = 0)
    (hh : Memory.wf c.hdrCap d.hdr = true) (hp : Memory.wf c.payCap d.pay = true) : d.Inv c := by
  have hread : d.read.toNat ≤ c.hdrCap + c.payCap := by omega
  simpa [hd, hh, hp, h4, hcap, hlt, hread, Decoder.Inv, Decoder.Counts, Decoder.Fits, DState.beforeHeader,
    DState.inTrailer] using hlen

theorem inv_of_pay (hd : d.dstate = .pay) (hmin : c.hdrMinLen ≤ d.hdrLen.toNat) (hcap : d.hdrLen.toNat ≤ c.hdrCap)
    (hle : d.hdrLen.toNat ≤ d.read.toNat) (hlt : d.read.toNat < d.hdrLen.toNat + d.msgLen.toNat)
    (hpay : d.read.toNat - d.hdrLen.toNat ≤ c.payCap) (hh : Memory.wf c.hdrCap d.hdr = true)
    (hp : Memory.wf c.payCap d.pay = true) : d.Inv c := by
  have hread : d.read.toNat ≤ c.hdrCap + c.payCap := by omega
  have hpay' : d.read.toNat ≤ c.payCap + d.hdrLen.toNat := by omega
  simp [hd, hh, hp, hmin, hcap, hle, hlt, hpay', hread, Decoder.Inv, Decoder.Counts, Decoder.Fits, DState.beforeHeader,
    DState.inTrailer]

theorem inv_of_trailer (hd : d.dstate.inTrailer = true) (hmin : c.hdrMinLen ≤ d.hdrLen.toNat)
    (hcap : d.hdrLen.toNat ≤ c.hdrCap) (hmsg : d.msgLen.toNat ≤ c.payCap)
    (hread : d.read.toNat = d.hdrLen.toNat + d.msgLen.toNat) (hh : Memory.wf c.hdrCap d.hdr = true)
    (hp : Memory.wf c.payCap d.pay = true) : d.Inv c := by
  have hsum : d.hdrLen.toNat + d.msgLen.toNat ≤ c.hdrCap + c.payCap := by omega
  cases hs : d.dstate with rw [hs] at hd
  | ck1 | ck2 | ck3 | ck4 =>
    simp [hs, hh, hp, hmin, hcap, hmsg, hread, hsum, Decoder.Inv, Decoder.Counts, Decoder.Fits, DState.beforeHeader,
      DState.inTrailer]
  | sync1 | sync2 | sync3 | hdrlen | hdr | pay => cases hd

/-- A complete header leads to CK1 or PAY (R128). -/
theorem headerDone_inv (hmin : c.hdrMinLen ≤ d.hdrLen.toNat) (hcap : d.hdrLen.toNat ≤ c.hdrCap)
    (hread : d.read.toNat = d.hdrLen.toNat) (hh : Memory.wf c.hdrCap d.hdr = true) (hp : Memory.wf c.payCap d.pay = true) :
    (headerDone c d).Inv c := by
  by_cases hmsg : le16 d.hdr c.msglenOffset = 0
  · have hzero : (headerDone c d).msgLen.toNat = 0 := congrArg BitVec.toNat hmsg
    have hstate : (headerDone c d).dstate = .ck1 := if_pos hmsg
    exact inv_of_trailer (by rw [hstate]; rfl) hmin hcap (by omega) (by rw [hzero]; exact hread) hh hp
  · have hpos : 0 < (headerDone c d).msgLen.toNat := Nat.pos_of_ne_zero fun h0 => hmsg (BitVec.eq_of_toNat_eq h0)
    have hstate : (headerDone c d).dstate = .pay := if_neg hmsg
    exact inv_of_pay hstate hmin hcap hread.ge (hread.trans_lt (Nat.lt_add_of_pos_right hpos))
      ((Nat.sub_eq_zero_of_le hread.le).trans_le (Nat.zero_le _)) hh hp

variable (hinv : d.Inv c)
include hinv

theorem hdrLen_of_inv : c.hdrMinLen ≤ d.hdrLen.toNat ∨ d.hdrLen = 0 := by
  obtain ⟨⟨-, -, -, -, -, hlen⟩, -⟩ := hinv
  exact hlen

theorem counts_of_hdr (hd : d.dstate = .hdr) :
    4 ≤ d.read.toNat ∧ d.read.toNat ≤ c.hdrCap ∧ d.read.toNat < d.hdrLen.toNat ∧ c.hdrMinLen ≤ d.hdrLen.toNat := by
  obtain ⟨⟨-, hhdr, -, -, -, hlen⟩, -⟩ := hinv
  obtain ⟨h4, hcap, hlt⟩ := hhdr hd
  refine ⟨h4, hcap, hlt, hlen.resolve_right fun h0 => ?_⟩
  rw [h0] at hlt
  exact absurd hlt (Nat.not_lt_zero _)

theorem counts_of_pay (hd : d.dstate = .pay) : c.hdrMinLen ≤ d.hdrLen.toNat ∧ d.hdrLen.toNat ≤ c.hdrCap ∧
    d.hdrLen.toNat ≤ d.read.toNat ∧ d.read.toNat < d.hdrLen.toNat + d.msgLen.toNat ∧
    d.read.toNat - d.hdrLen.toNat ≤ c.payCap := by
  obtain ⟨⟨-, -, hpay, -⟩, ⟨hfits, -⟩, -⟩ := hinv
  obtain ⟨hmin, hcap⟩ := hfits (.inl hd)
  exact ⟨hmin, hcap, hpay hd⟩

theorem counts_of_trailer (hd : d.dstate.inTrailer = true) : c.hdrMinLen ≤ d.hdrLen.toNat ∧ d.hdrLen.toNat ≤ c.hdrCap ∧
    d.msgLen.toNat ≤ c.payCap ∧ d.read.toNat = d.hdrLen.toNat + d.msgLen.toNat := by
  obtain ⟨⟨-, -, -, -, hread, -⟩, ⟨hfits, hmsg⟩, -⟩ := hinv
  obtain ⟨hmin, hcap⟩ := hfits (.inr hd)
  exact ⟨hmin, hcap, hmsg hd, hread hd⟩

/-- A restart, whatever it counts, is back before the header (R122). -/
theorem restart_inv : d.restart.Inv c := by
  have hlen := hdrLen_of_inv hinv
  obtain ⟨-, -, hh, hp⟩ := hinv
  exact inv_of_beforeHeader rfl rfl hlen hh hp

end Classes

/-! ## One byte keeps the decoder's invariant -/

section Byte

variable {c : Config} {d : Decoder} (hc : c.Legal) (hinv : d.Inv c) (b : Byte)
include hinv

/-- The next preamble state, or the same. -/
theorem sync_inv {q q' : DState} (hd : d.dstate = q) (hq : q.beforeHeader = true) (hq' : q'.beforeHeader = true) :
    Decoder.Inv c { d with dstate := q' } := by
  have hlen := hdrLen_of_inv hinv
  obtain ⟨⟨-, -, -, hread, -⟩, -, hh, hp⟩ := hinv
  exact inv_of_beforeHeader hq' (hread (by rw [hd, hq])) hlen hh hp

/-- The trailer bytes change no count (R130 to R132). -/
theorem trailer_inv {q q' : DState} (rx : Word) (hd : d.dstate = q) (hq : q.inTrailer = true) (hq' : q'.inTrailer = true) :
    Decoder.Inv c { d with rxCrc := rx, dstate := q' } := by
  obtain ⟨hmin, hcap, hmsg, hread⟩ := counts_of_trailer hinv (by rw [hd, hq])
  obtain ⟨-, -, hh, hp⟩ := hinv
  exact inv_of_trailer hq' hmin hcap hmsg hread hh hp

theorem decStep_ck4_inv (hd : d.dstate = .ck4) : ∃ r, decStep c b d = .ok r ∧ r.dec.Inv c := by
  obtain ⟨-, hcap, hmsg, -⟩ := counts_of_trailer hinv (by rw [hd]; rfl)
  by_cases hcrc : crc32Frame d.header d.payload = d.rxCrc ||| (b.zeroExtend 32 <<< 24)
  · exact ⟨_, decStep_ck4_match hd hcap hmsg rfl hcrc, restart_inv hinv⟩
  · exact ⟨_, decStep_ck4_mismatch hd hcap hmsg hcrc, restart_inv hinv⟩

include hc

theorem decStep_hdr_inv (hd : d.dstate = .hdr) : ∃ r, decStep c b d = .ok r ∧ r.dec.Inv c := by
  obtain ⟨h4, hcap, hlt, hmin⟩ := counts_of_hdr hinv hd
  by_cases hfull : d.read.toNat = c.hdrCap
  · exact ⟨_, decStep_hdr_full b hd hfull, restart_inv hinv⟩
  · obtain ⟨⟨-, h255⟩, -⟩ := hc
    have hroom : d.read.toNat < c.hdrCap := by omega
    have hlen := hdrLen_of_inv hinv
    obtain ⟨-, -, hh, hp⟩ := hinv
    have hh' := Memory.write_wf b hh hroom
    have hread : (d.read + 1).toNat = d.read.toNat + 1 := toNat_succ (by omega)
    refine ⟨_, decStep_hdr_store b h255 hd hroom, ?_⟩
    by_cases hlast : d.read.toNat + 1 = d.hdrLen.toNat
    · rw [if_pos hlast]
      have hcap' : d.hdrLen.toNat ≤ c.hdrCap := by omega
      exact headerDone_inv hmin hcap' (hread.trans hlast) hh' hp
    · rw [if_neg hlast]
      have h4' : 4 ≤ (d.read + 1).toNat := by omega
      have hcap' : (d.read + 1).toNat ≤ c.hdrCap := by omega
      have hlt' : (d.read + 1).toNat < d.hdrLen.toNat := by omega
      exact inv_of_hdr hd h4' hcap' hlt' hlen hh' hp

theorem decStep_pay_inv (hd : d.dstate = .pay) : ∃ r, decStep c b d = .ok r ∧ r.dec.Inv c := by
  obtain ⟨hmin, hcap, hle, hlt, hroom⟩ := counts_of_pay hinv hd
  by_cases hfull : d.read.toNat = d.hdrLen.toNat + c.payCap
  · exact ⟨_, decStep_pay_full b hd hfull, restart_inv hinv⟩
  · obtain ⟨-, ⟨-, h65535⟩, -⟩ := hc
    obtain ⟨-, -, hh, hp⟩ := hinv
    have hp' := Memory.write_wf (i := d.read.toNat - d.hdrLen.toNat) b hp (by omega)
    have hread : (d.read + 1).toNat = d.read.toNat + 1 := toNat_succ (by omega)
    refine ⟨_, decStep_pay_store b h65535 hd hle (by omega), ?_⟩
    by_cases hlast : d.read.toNat + 1 = d.hdrLen.toNat + d.msgLen.toNat
    · rw [if_pos hlast]
      have hmsg : d.msgLen.toNat ≤ c.payCap := by omega
      exact inv_of_trailer rfl hmin hcap hmsg (hread.trans hlast) hh hp'
    · rw [if_neg hlast]
      have hle' : d.hdrLen.toNat ≤ (d.read + 1).toNat := by omega
      have hlt' : (d.read + 1).toNat < d.hdrLen.toNat + d.msgLen.toNat := by omega
      have hroom' : (d.read + 1).toNat - d.hdrLen.toNat ≤ c.payCap := by omega
      exact inv_of_pay rfl hmin hcap hle' hlt' hroom' hh hp'

theorem decStep_hdrlen_inv (hd : d.dstate = .hdrlen) : ∃ r, decStep c b d = .ok r ∧ r.dec.Inv c := by
  by_cases hb : b.toNat < c.hdrMinLen
  · exact ⟨_, decStep_hdrlen_short hd hb, restart_inv hinv⟩
  · have hmin : c.hdrMinLen ≤ b.toNat := Nat.le_of_not_lt hb
    have h6 := six_le_hdrMinLen hc
    obtain ⟨⟨hcap, -⟩, -⟩ := hc
    have h4 : 4 ≤ c.hdrCap := by omega
    have hlt : 4 < b.toNat := by omega
    obtain ⟨-, -, hh, hp⟩ := hinv
    exact ⟨_, decStep_hdrlen_accepted hd hmin,
      inv_of_hdr rfl (Nat.le_refl 4) h4 hlt (.inl hmin) (seedHeader_wf b hh h4) hp⟩

/-- Every byte is answered, and keeps the invariant. -/
theorem decStep_inv : ∃ r, decStep c b d = .ok r ∧ r.dec.Inv c := by
  cases hd : d.dstate with
  | sync1 =>
    refine ⟨_, decStep_sync1 c b hd, sync_inv hinv hd rfl ?_⟩
    split <;> rfl
  | sync2 =>
    refine ⟨_, decStep_sync2 c b hd, ?_⟩
    split
    · exact sync_inv hinv hd rfl rfl
    · exact restart_inv hinv
  | sync3 =>
    refine ⟨_, decStep_sync3 c b hd, ?_⟩
    split
    · exact sync_inv hinv hd rfl rfl
    · exact restart_inv hinv
  | hdrlen => exact decStep_hdrlen_inv hc hinv b hd
  | hdr => exact decStep_hdr_inv hc hinv b hd
  | pay => exact decStep_pay_inv hc hinv b hd
  | ck1 => exact ⟨_, decStep_ck1 c b hd, trailer_inv hinv _ hd rfl rfl⟩
  | ck2 => exact ⟨_, decStep_ck2 c b hd, trailer_inv hinv _ hd rfl rfl⟩
  | ck3 => exact ⟨_, decStep_ck3 c b hd, trailer_inv hinv _ hd rfl rfl⟩
  | ck4 => exact decStep_ck4_inv hinv b hd

end Byte

/-! ## The operations that depend on a parameter keep the block's invariant -/

theorem unlessWaiting_inv {c : Config} {s : State} {run : Except Fault State} (hs : s.block.Inv c)
    (hrun : s.block.arb.astate ≠ .wait → ∃ t, run = .ok t ∧ t.block.Inv c) :
    ∃ t, unlessWaiting s run = .ok t ∧ t.block.Inv c := by
  by_cases hw : s.block.arb.astate = .wait
  · exact ⟨_, unlessWaiting_wait run hw, hs⟩
  · rw [unlessWaiting_free run hw]
    exact hrun hw

theorem onlyWaiting_inv {c : Config} {s : State} {run : Except Fault State} (hs : s.block.Inv c)
    (hrun : s.block.arb.astate = .wait → ∃ t, run = .ok t ∧ t.block.Inv c) :
    ∃ t, onlyWaiting s run = .ok t ∧ t.block.Inv c := by
  by_cases hw : s.block.arb.astate = .wait
  · rw [onlyWaiting_wait run hw]
    exact hrun hw
  · exact ⟨_, onlyWaiting_free run hw, hs⟩

section Block

variable {c : Config} {s : State} (hs : s.block.Inv c)
include hs

theorem startTransaction_inv : ∃ t, startTransaction c s = .ok t ∧ t.block.Inv c := by
  have ⟨hdec, hcmd, hpat, htries, _, _, hwcmd, hwpat⟩ := hs
  by_cases hw : s.block.arb.astate = .wait
  · exact ⟨_, unlessWaiting_wait _ hw, hs⟩
  · refine ⟨started s, startTransaction_free hw hcmd, hdec, hcmd, hpat, htries, Nat.zero_le _, fun hwait => ?_, hwcmd, hwpat⟩
    have hne : s.block.arb.patLen ≠ 0 := fun h0 => by
      have hsucc : (started s).block.arb.astate = .success := if_pos h0
      rw [hsucc] at hwait
      cases hwait
    exact ⟨Nat.pos_of_ne_zero fun h0 => hne (BitVec.eq_of_toNat_eq h0), Nat.le_refl 1, htries⟩

theorem receiveReply_inv (b : Byte) : ∃ t, receiveReply c b s = .ok t ∧ t.block.Inv c := by
  have ⟨hdec, hcmd, hpat, htries, _, hwait, hwcmd, hwpat⟩ := hs
  by_cases hw : s.block.arb.astate = .wait
  · obtain ⟨hm, h1, hatt⟩ := hwait hw
    have hj := toNat_ofNat_matchNext s.block.arb s.block.arb.matchLen.toNat b
    have hle : (received b s).block.arb.matchLen.toNat ≤ s.block.arb.patLen.toNat := by
      rw [← Arbiter.pattern_length]
      exact hj.trans_le (matchNext_le _ _ b)
    refine ⟨received b s, receiveReply_wait b hw hpat hm, hdec, hcmd, hpat, htries, hle, fun hwait => ⟨?_, h1, hatt⟩, hwcmd, hwpat⟩
    refine lt_of_le_of_ne hle fun heq => ?_
    have hsucc : (received b s).block.arb.astate = .success := if_pos (hj.symm.trans heq)
    rw [hsucc] at hwait
    cases hwait
  · exact ⟨_, onlyWaiting_free _ hw, hs⟩

theorem tick_inv (d : Word) : ∃ t, tick c d s = .ok t ∧ t.block.Inv c := by
  refine onlyWaiting_inv hs fun hw => ?_
  obtain ⟨hdec, hcmd, hpat, htries, hmatch, hwait, hwcmd, hwpat⟩ := hs
  obtain ⟨hm, h1, hatt⟩ := hwait hw
  by_cases hl : timeLimit c s.block.arb.budget < (addElapsed s.block.arb.elapsed d).toNat
  · by_cases ha : s.block.arb.attempts < s.block.arb.maxTries
    · have hlt : s.block.arb.attempts.toNat < s.block.arb.maxTries.toNat := ha
      have hmax := s.block.arb.maxTries.isLt
      have hnext : (s.block.arb.attempts + 1).toNat = s.block.arb.attempts.toNat + 1 :=
        BitVec.toNat_add_of_lt (by simp; omega)
      refine ⟨(sent (s.setArb { s.block.arb.ticked d with attempts := s.block.arb.attempts + 1 })).done,
        (if_pos hl).trans ((if_pos ha).trans ?_), hdec, hcmd, hpat, htries, Nat.zero_le _,
        fun _ => ⟨Nat.zero_lt_of_lt hm, ?_, hnext.trans_le hlt⟩, hwcmd, hwpat⟩
      · rw [send_inside (by simpa using hcmd)]
        rfl
      · exact (Nat.le_add_left 1 _).trans_eq hnext.symm
    · rw [if_pos hl, if_neg ha]
      exact ⟨_, rfl, hdec, hcmd, hpat, htries, hmatch, nofun, hwcmd, hwpat⟩
  · rw [if_neg hl]
    exact ⟨_, rfl, hdec, hcmd, hpat, htries, hmatch, fun _ => ⟨hm, h1, hatt⟩, hwcmd, hwpat⟩

theorem consumeByte_inv (hc : c.Legal) (b : Byte) : ∃ t, consumeByte c b s = .ok t ∧ t.block.Inv c := by
  obtain ⟨hdec, harb⟩ := hs
  obtain ⟨r, hr, hinv⟩ := decStep_inv hc hdec b
  exact ⟨_, consumeByte_of_step hr, hinv, harb⟩

theorem appendCommand_inv (hc : c.Legal) (b : Byte) : ∃ t, appendCommand c b s = .ok t ∧ t.block.Inv c := by
  refine unlessWaiting_inv hs fun hw => ?_
  obtain ⟨-, -, -, -, -, ⟨-, h255⟩, -⟩ := hc
  have ⟨hdec, hcmd, hpat, htries, hmatch, _, hwcmd, hwpat⟩ := hs
  by_cases hfull : s.block.arb.cmdLen.toNat = c.cmdCap
  · exact ⟨_, if_pos hfull, hs⟩
  · have hroom : s.block.arb.cmdLen.toNat < c.cmdCap := by omega
    have hlen : (s.block.arb.cmdLen + 1).toNat = s.block.arb.cmdLen.toNat + 1 := BitVec.toNat_add_of_lt (by simp; omega)
    rw [if_neg hfull, storeByte_inside .cmd b s.block.arb.cmd hroom]
    exact ⟨_, rfl, hdec, hlen.trans_le hroom, hpat, htries, hmatch, fun h => absurd h hw, Memory.write_wf b hwcmd hroom, hwpat⟩

theorem appendPattern_inv (hc : c.Legal) (b : Byte) : ∃ t, appendPattern c b s = .ok t ∧ t.block.Inv c := by
  refine unlessWaiting_inv hs fun hw => ?_
  obtain ⟨-, -, -, -, -, -, ⟨-, h255⟩, -⟩ := hc
  have ⟨hdec, hcmd, hpat, htries, hmatch, _, hwcmd, hwpat⟩ := hs
  by_cases hfull : s.block.arb.patLen.toNat = c.patCap
  · exact ⟨_, if_pos hfull, hs⟩
  · have hroom : s.block.arb.patLen.toNat < c.patCap := by omega
    have hlen : (s.block.arb.patLen + 1).toNat = s.block.arb.patLen.toNat + 1 := BitVec.toNat_add_of_lt (by simp; omega)
    rw [if_neg hfull, storeByte_inside .pat b s.block.arb.pat hroom]
    exact ⟨_, rfl, hdec, hcmd, hlen.trans_le hroom, htries, (hmatch.trans (Nat.le_succ _)).trans_eq hlen.symm,
      fun h => absurd h hw, hwcmd, Memory.write_wf b hwpat hroom⟩

end Block

/-! ## Every operation -/

/-- The states that meet the invariant and have the answer of an operation as their next state. -/
theorem exec_inv_of_ok {i : Instr} {s : State} {x : Except Fault State} (hs : s.Inv) (hi : exec i s = outcome x)
    (hx : ∃ t, x = .ok t ∧ t.block.Inv s.cfg) : ∃ t, exec i s = .next t ∧ t.Inv := by
  obtain ⟨t, rfl, ht⟩ := hx
  refine ⟨t, hi, ?_⟩
  rw [State.Inv, exec_cfg hi]
  exact ⟨hs.1, ht⟩

theorem triesValue_pos (n : Byte) : 1 ≤ (triesValue n).toNat := by
  by_cases hn : n = 0
  · rw [triesValue, if_pos hn]
    decide
  · rw [triesValue_of_ne_zero hn]
    exact Nat.pos_of_ne_zero fun h0 => hn (BitVec.eq_of_toNat_eq h0)

/-- In a state with the invariant every operation answers a state, and that state has the invariant. -/
theorem exec_inv {s : State} (hs : s.Inv) (i : Instr) : ∃ t, exec i s = .next t ∧ t.Inv := by
  have hlegal : s.cfg.Legal := hs.1
  have hblock : s.block.Inv s.cfg := hs.2
  by_cases hi : i.isWrite = false
  · obtain ⟨v, hv⟩ := exec_read hi s
    exact ⟨_, hv, hs⟩
  · obtain ⟨hdec, harb⟩ := hblock
    obtain ⟨hcmd, hpat, htries, hmatch, hwait, hwcmd, hwpat⟩ := harb
    cases i with
    | ctlReset => exact ⟨_, rfl, hlegal, decoder_reset_inv _, arbiter_reset_inv _⟩
    | ctlDecrst => exact ⟨_, rfl, hlegal, restart_inv (d := s.block.dec) hdec, hs.2.2⟩
    | ctlClrcnt | fbufSel | ctlClrerr | crcSeed | crcByte | wrIllegal => exact ⟨_, rfl, hs⟩
    | decByte b => exact exec_inv_of_ok hs rfl (consumeByte_inv hs.2 hlegal b)
    | arbStart => exact exec_inv_of_ok hs rfl (startTransaction_inv hs.2)
    | arbCmd b => exact exec_inv_of_ok hs rfl (appendCommand_inv hs.2 hlegal b)
    | arbPat b => exact exec_inv_of_ok hs rfl (appendPattern_inv hs.2 hlegal b)
    | arbRx b => exact exec_inv_of_ok hs rfl (receiveReply_inv hs.2 b)
    | arbTick d => exact exec_inv_of_ok hs rfl (tick_inv hs.2 d)
    | arbAbort | arbIoerr =>
      exact exec_inv_of_ok hs rfl (onlyWaiting_inv hs.2 fun _ =>
        ⟨_, rfl, hdec, hcmd, hpat, htries, hmatch, nofun, hwcmd, hwpat⟩)
    | arbClrcmd =>
      exact exec_inv_of_ok hs rfl (unlessWaiting_inv hs.2 fun hw =>
        ⟨_, rfl, hdec, Nat.zero_le _, hpat, htries, hmatch, fun h => absurd h hw, hwcmd, hwpat⟩)
    | arbClrpat =>
      exact exec_inv_of_ok hs rfl (unlessWaiting_inv hs.2 fun hw =>
        ⟨_, rfl, hdec, hcmd, Nat.zero_le _, htries, Nat.le_refl _, fun h => absurd h hw, hwcmd, hwpat⟩)
    | arbBudget v =>
      exact exec_inv_of_ok hs rfl (unlessWaiting_inv hs.2 fun hw => ⟨_, rfl, hs.2⟩)
    | arbTries n =>
      exact exec_inv_of_ok hs rfl (unlessWaiting_inv hs.2 fun hw =>
        ⟨_, rfl, hdec, hcmd, hpat, triesValue_pos n, hmatch, fun h => absurd h hw, hwcmd, hwpat⟩)
    | _ => exact absurd rfl hi

theorem inv_of_exec {i : Instr} {s t : State} (hs : s.Inv) (h : exec i s = .next t) : t.Inv := by
  obtain ⟨t', ht', hinv⟩ := exec_inv hs i
  cases h.symm.trans ht'
  exact hinv

/-- A step is idle, or takes the oldest word off the queue and performs its operation (R73). -/
theorem step_cases (s : State) : step s = .next s ∨ ∃ w rest, step s = exec (decode w) { s with bus := rest } := by
  cases hb : s.bus with
  | nil => exact .inl (by rw [step, takeTransaction, hb]; rfl)
  | cons w rest => exact .inr ⟨w, rest, by rw [step, takeTransaction, hb]⟩

/-- In a state with the invariant the step answers a state, and that state has the invariant. -/
theorem step_inv {s : State} (hs : s.Inv) : ∃ t, step s = .next t ∧ t.Inv := by
  rcases step_cases s with h | ⟨w, rest, h⟩
  · exact ⟨s, h, hs⟩
  · rw [h]
    exact exec_inv (s := { s with bus := rest }) hs (decode w)

/-- Settles O58: the state that the step answers is the one with the invariant. -/
theorem everyStepKeepsTheInvariant : Obligations.EveryStepKeepsTheInvariant := by
  intro s t hs h
  obtain ⟨t', ht', hinv⟩ := step_inv hs
  cases h.symm.trans ht'
  exact hinv

/-- Settles O59: the invariant keeps every access in its buffer and the match step in its domain. -/
theorem invariantStatesNeverStop : Obligations.InvariantStatesNeverStop := by
  intro s hs
  refine ⟨fun i => ?_, ?_⟩
  · obtain ⟨t, ht, -⟩ := exec_inv hs i
    exact ⟨t, ht⟩
  · obtain ⟨t, ht, -⟩ := step_inv hs
    exact ⟨t, ht⟩

end Sys2Proof.Machine
end

section
/-! SUPPORT. What one byte can do to the decoder, said once (`ByteEffect`, the table of R138), and what an operation can do to the
decoder (`DecoderWrite`). From these the invariant of the retained frame (R25, R150), and that runs from power-on keep it. -/

namespace Sys2Proof.Machine

open Sys2Proof

/-! ## The effects of a byte (R121 to R138) -/

/-- The ways a byte moves the decoder. -/
inductive ByteEffect (c : Config) (b : Byte) (d : Decoder) : DecStep → Prop
  | ignored (hd : d.dstate = .sync1) : ByteEffect c b d (stepTo d)
  | sync1 (hd : d.dstate = .sync1) (hb : b = 0xAA) : ByteEffect c b d (stepTo { d with dstate := .sync2 })
  | sync2 (hd : d.dstate = .sync2) (hb : b = 0x44) : ByteEffect c b d (stepTo { d with dstate := .sync3 })
  | sync3 (hd : d.dstate = .sync3) (hb : b = 0xB5) : ByteEffect c b d (stepTo { d with dstate := .hdrlen })
  | restarts (hd : d.dstate = .sync2 ∨ d.dstate = .sync3) : ByteEffect c b d (stepTo d.restart)
  | drops (hd : d.dstate = .hdrlen ∨ d.dstate = .hdr ∨ d.dstate = .pay) : ByteEffect c b d (dropFrame d)
  | seeds (hd : d.dstate = .hdrlen) : ByteEffect c b d
      (stepTo { d with hdr := seedHeader b d.hdr, hdrLen := b, read := 4, frameValid := false, dstate := .hdr })
  | storesHeader (hd : d.dstate = .hdr) (hne : d.read + 1 ≠ d.hdrLen.zeroExtend 32) :
      ByteEffect c b d (stepTo { d with hdr := Memory.write d.hdr d.read.toNat b, read := d.read + 1 })
  | completesHeader (hd : d.dstate = .hdr) (heq : d.read + 1 = d.hdrLen.zeroExtend 32) : ByteEffect c b d
      (stepTo (headerDone c { d with hdr := Memory.write d.hdr d.read.toNat b, read := d.read + 1 }))
  | storesPayload (hd : d.dstate = .pay) (hne : d.read + 1 ≠ d.hdrLen.zeroExtend 32 + d.msgLen.zeroExtend 32) :
      ByteEffect c b d (stepTo { d with
        pay := Memory.write d.pay (d.read - d.hdrLen.zeroExtend 32).toNat b, read := d.read + 1 })
  | completesPayload (hd : d.dstate = .pay) (heq : d.read + 1 = d.hdrLen.zeroExtend 32 + d.msgLen.zeroExtend 32) :
      ByteEffect c b d (stepTo { d with
        pay := Memory.write d.pay (d.read - d.hdrLen.zeroExtend 32).toNat b, read := d.read + 1, dstate := .ck1 })
  | ck1 (hd : d.dstate = .ck1) : ByteEffect c b d (stepTo { d with rxCrc := b.zeroExtend 32, dstate := .ck2 })
  | ck2 (hd : d.dstate = .ck2) :
      ByteEffect c b d (stepTo { d with rxCrc := d.rxCrc ||| (b.zeroExtend 32 <<< 8), dstate := .ck3 })
  | ck3 (hd : d.dstate = .ck3) :
      ByteEffect c b d (stepTo { d with rxCrc := d.rxCrc ||| (b.zeroExtend 32 <<< 16), dstate := .ck4 })
  | accepts (hd : d.dstate = .ck4) (hcrc : crc32Frame d.header d.payload = d.rxCrc ||| (b.zeroExtend 32 <<< 24)) :
      ByteEffect c b d (acceptFrame (d.checked b))
  | rejects (hd : d.dstate = .ck4) : ByteEffect c b d (rejectFrame (d.checked b))

/-- The inversion of the decoder's step. -/
theorem decStep_effect {c : Config} {b : Byte} {d : Decoder} {r : DecStep} (h : decStep c b d = .ok r) : ByteEffect c b d r := by
  rw [decStep] at h
  cases hd : d.dstate with rw [hd] at h
  | sync1 =>
    cases h
    rw [stepSync1]
    split
    next hb => exact .sync1 hd hb
    next => exact .ignored hd
  | sync2 =>
    cases h
    rw [stepSync2]
    split
    next hb => exact .sync2 hd hb
    next => exact .restarts (.inl hd)
  | sync3 =>
    cases h
    rw [stepSync3]
    split
    next hb => exact .sync3 hd hb
    next => exact .restarts (.inr hd)
  | hdrlen =>
    cases h
    rw [stepHdrlen]
    split
    · exact .drops (.inl hd)
    · exact .seeds hd
  | hdr =>
    rcases stepHdr_ok h with ⟨_, rfl⟩ | ⟨_, rfl⟩
    · exact .drops (.inr (.inl hd))
    · split
      next heq => exact .completesHeader hd heq
      next hne => exact .storesHeader hd hne
  | pay =>
    rcases stepPay_ok h with ⟨_, rfl⟩ | ⟨_, rfl⟩
    · exact .drops (.inr (.inr hd))
    · split
      next heq => exact .completesPayload hd heq
      next hne => exact .storesPayload hd hne
  | ck1 => cases h; exact .ck1 hd
  | ck2 => cases h; exact .ck2 hd
  | ck3 => cases h; exact .ck3 hd
  | ck4 =>
    obtain ⟨-, -, rfl⟩ := stepCk4_ok h
    split
    next hcrc => exact .accepts hd hcrc
    next => exact .rejects hd

/-! ## What an operation writes of the decoder -/

/-- The decoder after an operation that answers a state. -/
inductive DecoderWrite (s : State) : Instr → Decoder → Prop
  | keeps {i : Instr} (hi : decOperand i = none) : DecoderWrite s i s.block.dec
  | resets : DecoderWrite s .ctlReset Decoder.reset
  | restarts : DecoderWrite s .ctlDecrst { s.block.dec with dstate := .sync1, read := 0, frameValid := false, decResult := 0 }
  | clearsCounts : DecoderWrite s .ctlClrcnt { s.block.dec with badcrcCnt := 0, dropCnt := 0 }
  | selects (buf : BufSel) (idx : BitVec 16) :
      DecoderWrite s (.fbufSel buf idx) { s.block.dec with fsel := fselValue buf idx }
  | decodes {b : Byte} {r : DecStep} (hr : decStep s.cfg b s.block.dec = .ok r) :
      DecoderWrite s (.decByte b) { r.dec with decResult := r.result }

theorem exec_decoderWrite {i : Instr} {s t : State} (h : exec i s = .next t) : DecoderWrite s i t.block.dec := by
  cases i with
  | ctlReset => cases h; exact .resets
  | ctlDecrst => cases h; exact .restarts
  | ctlClrcnt => cases h; exact .clearsCounts
  | fbufSel buf idx => cases h; exact .selects buf idx
  | decByte b =>
    obtain ⟨r, hr, rfl⟩ := consumeByte_ok (outcome_eq_next.1 h)
    exact .decodes hr
  | _ =>
    rw [exec_dec_eq h (by simp) (by simp) (by simp) (by simp) (by simp)]
    exact .keeps rfl

/-! ## The frame in the buffers -/

theorem Memory.bytes_take (m : Memory) {k n : Nat} (h : k ≤ n) : (Memory.bytes m n).take k = Memory.bytes m k := by
  simp [Memory.bytes, ← List.map_take, List.take_range, Nat.min_eq_left h]

theorem Memory.bytes_getD (m : Memory) {k n : Nat} (h : k < n) : (Memory.bytes m n).getD k 0 = Memory.read m k := by
  rw [List.getD_eq_getElem _ _ (by simpa using h), Memory.bytes_getElem]

/-- The field of a span is the field of the buffer (R13). -/
theorem listLe16_bytes (m : Memory) {o n : Nat} (h : o + 2 ≤ n) : listLe16 (Memory.bytes m n) o = le16 m o := by
  rw [listLe16, Memory.bytes_getD m (by omega), Memory.bytes_getD m (by omega), le16_eq_append]

/-- The seeded header starts with the preamble and the length (R126). -/
theorem bytes_seedHeader {cap : Nat} {m : Memory} (b : Byte) (hm : Memory.wf cap m = true) (hc : 4 ≤ cap) :
    Memory.bytes (seedHeader b m) 4 = [0xAA, 0x44, 0xB5, b] := by
  obtain ⟨h0, h1, h2, h3, -⟩ := read_seedHeader b hm hc
  simp [Memory.bytes, List.range_succ, h0, h1, h2, h3]

/-- In the trailer states the buffers hold a frame body of legal lengths. -/
theorem frameBody_of_trailer {c : Config} {d : Decoder} (hc : c.Legal) (hinv : d.Inv c) (hin : d.InFrame c)
    (hd : d.dstate.inTrailer = true) : FrameBody c d.header d.payload := by
  obtain ⟨hmin, hcap, hmsg, -⟩ := counts_of_trailer hinv hd
  have h6 := six_le_hdrMinLen hc
  have hbefore : d.dstate.beforeHeader = false := by
    cases hs : d.dstate with rw [hs] at hd
    | ck1 | ck2 | ck3 | ck4 => rfl
    | sync1 | sync2 | sync3 | hdrlen | hdr | pay => cases hd
  obtain ⟨hfront, hfield⟩ := hin
  obtain ⟨-, hfour⟩ := hfront hbefore
  have hpre : d.header.take 3 = [0xAA, 0x44, 0xB5] := by
    rw [Decoder.header, Memory.bytes_take _ (by omega), ← Memory.bytes_take _ (show 3 ≤ 4 by decide), hfour]
    rfl
  have hlen : d.header.getD 3 0 = d.hdrLen := by
    rw [Decoder.header, Memory.bytes_getD _ (by omega), ← Memory.bytes_getD _ (show 3 < 4 by decide), hfour]
    rfl
  have hoffset : c.msglenOffset + 2 ≤ d.hdrLen.toNat := le_trans (Nat.add_le_add_right (le_max_right _ _) 2) hmin
  refine ⟨?_, ?_, hpre, ?_, ?_, ?_⟩
  · rwa [Decoder.header, Memory.bytes_length]
  · rwa [Decoder.header, Memory.bytes_length]
  · rw [hlen, Decoder.header, Memory.bytes_length]
  · rwa [Decoder.payload, Memory.bytes_length]
  · rw [Decoder.header, listLe16_bytes _ hoffset, ← hfield (.inr hd), Decoder.payload, Memory.bytes_length]

/-! ## The invariant of the retained frame -/

theorem inFrame_of_beforeHeader {c : Config} {d : Decoder} (hd : d.dstate.beforeHeader = true) : d.InFrame c := by
  refine ⟨fun h => absurd (hd.symm.trans h) (by decide), ?_⟩
  cases hs : d.dstate with rw [hs] at hd
  | sync1 | sync2 | sync3 | hdrlen => rintro (h | h) <;> cases h
  | hdr | pay | ck1 | ck2 | ck3 | ck4 => cases hd

theorem retainsFrame_of_invalid {c : Config} {d : Decoder} (hd : d.frameValid = false) : d.RetainsFrame c := fun h =>
  absurd (h.symm.trans hd) (by decide)

section FrameInvariant

variable {c : Config} {d : Decoder} (hin : d.InFrame c)
include hin

theorem frame_started {q : DState} (hd : d.dstate = q) (hq : q.beforeHeader = false) :
    d.frameValid = false ∧ Memory.bytes d.hdr 4 = [0xAA, 0x44, 0xB5, d.hdrLen] := by
  obtain ⟨hfront, -⟩ := hin
  exact hfront (by rw [hd, hq])

/-- A header byte goes behind the preamble and the length (R127). -/
theorem header_kept (b : Byte) (hd : d.dstate = .hdr) (h4 : 4 ≤ d.read.toNat) :
    Memory.bytes (Memory.write d.hdr d.read.toNat b) 4 = [0xAA, 0x44, 0xB5, d.hdrLen] := by
  obtain ⟨-, hfour⟩ := frame_started hin hd rfl
  rw [Memory.bytes_write_beyond _ _ _ _ h4, hfour]

/-- Every byte keeps the invariant of the retained frame. -/
theorem byteEffect_frameInv {b : Byte} {r : DecStep} (hc : c.Legal) (hinv : d.Inv c) (hret : d.RetainsFrame c)
    (hr : ByteEffect c b d r) : r.dec.InFrame c ∧ r.dec.RetainsFrame c := by
  cases hr with
  | ignored hd => exact ⟨hin, hret⟩
  | sync1 | sync2 | sync3 | restarts | drops => exact ⟨inFrame_of_beforeHeader rfl, hret⟩
  | seeds hd =>
    have h6 := six_le_hdrMinLen hc
    obtain ⟨⟨hcap, -⟩, -⟩ := hc
    obtain ⟨-, -, hh, -⟩ := hinv
    refine ⟨⟨fun _ => ⟨rfl, bytes_seedHeader b hh (by omega)⟩, ?_⟩, retainsFrame_of_invalid rfl⟩
    rintro (h | h) <;> cases h
  | storesHeader hd hne =>
    obtain ⟨h4, -⟩ := counts_of_hdr hinv hd
    obtain ⟨hvalid, -⟩ := frame_started hin hd rfl
    refine ⟨⟨fun _ => ⟨hvalid, header_kept hin b hd h4⟩, fun h => ?_⟩, retainsFrame_of_invalid hvalid⟩
    rcases h with h | h
    · cases hd.symm.trans h
    · cases (congrArg DState.inTrailer hd).symm.trans h
  | completesHeader hd heq =>
    obtain ⟨h4, -⟩ := counts_of_hdr hinv hd
    obtain ⟨hvalid, -⟩ := frame_started hin hd rfl
    exact ⟨⟨fun _ => ⟨hvalid, header_kept hin b hd h4⟩, fun _ => rfl⟩, retainsFrame_of_invalid hvalid⟩
  | storesPayload hd | completesPayload hd =>
    have hfront := frame_started hin hd rfl
    obtain ⟨-, hfield⟩ := hin
    exact ⟨⟨fun _ => hfront, fun _ => hfield (.inl hd)⟩, retainsFrame_of_invalid hfront.1⟩
  | ck1 hd | ck2 hd | ck3 hd =>
    have hfront := frame_started hin hd rfl
    obtain ⟨-, hfield⟩ := hin
    exact ⟨⟨fun _ => hfront, fun _ => hfield (.inr (by rw [hd]; rfl))⟩, retainsFrame_of_invalid hfront.1⟩
  | accepts hd hcrc =>
    have hbody := frameBody_of_trailer hc hinv hin (by rw [hd]; rfl)
    exact ⟨inFrame_of_beforeHeader rfl, fun _ => ⟨hbody, rfl, hcrc.symm⟩⟩
  | rejects hd =>
    obtain ⟨hvalid, -⟩ := frame_started hin hd rfl
    exact ⟨inFrame_of_beforeHeader rfl, retainsFrame_of_invalid hvalid⟩

end FrameInvariant

/-- Every operation keeps the invariant of the retained frame: but for DEC.BYTE it leaves the frame, or gives it up. -/
theorem frameInv_of_exec {i : Instr} {s t : State} (hs : s.Inv) (hf : s.FrameInv) (h : exec i s = .next t) : t.FrameInv := by
  obtain ⟨hc, hdec, -⟩ := hs
  obtain ⟨hin, hret⟩ := hf
  have hw := exec_decoderWrite h
  rw [State.FrameInv, exec_cfg h]
  generalize t.block.dec = d at hw
  cases hw with
  | keeps | clearsCounts | selects => exact ⟨hin, hret⟩
  | resets => exact decoder_reset_frameInv s.cfg
  | restarts => exact ⟨inFrame_of_beforeHeader rfl, retainsFrame_of_invalid rfl⟩
  | decodes hr => exact byteEffect_frameInv hin hc hdec hret (decStep_effect hr)

/-- Settles O33: a step is idle or one operation, which keeps the frame invariant. -/
theorem validFlagMeansACheckedFrameAfterEveryStep : Obligations.ValidFlagMeansACheckedFrameAfterEveryStep := by
  intro s t hs hf h
  rcases step_cases s with hidle | ⟨w, rest, hstep⟩
  · cases h.symm.trans hidle
    exact hf
  · exact frameInv_of_exec (s := { s with bus := rest }) hs hf (hstep.symm.trans h)

/-! ## Runs -/

theorem step_cfg {s t : State} (h : step s = .next t) : t.cfg = s.cfg := by
  rcases step_cases s with hidle | ⟨w, rest, hstep⟩
  · cases h.symm.trans hidle
    rfl
  · exact exec_cfg (s := { s with bus := rest }) (hstep.symm.trans h)

/-- A run of the core from a state that meets both invariants goes on, keeps the parameters and meets both again. -/
theorem run_inv (n : Nat) {s : State} (hs : s.Inv) (hf : s.FrameInv) :
    ∃ t : State, Host.Core.run core n s = .next t ∧ t.cfg = s.cfg ∧ t.Inv ∧ t.FrameInv := by
  induction n generalizing s with
  | zero => exact ⟨s, rfl, rfl, hs, hf⟩
  | succ n ih =>
    obtain ⟨u, hu, hinv⟩ := step_inv hs
    obtain ⟨t, ht, hcfg, hrest⟩ := ih hinv (validFlagMeansACheckedFrameAfterEveryStep s u hs hf hu)
    exact ⟨t, (run_succ_of_next hu n).trans ht, hcfg.trans (step_cfg hu), hrest⟩

/-- Settles O60: the queued words do not touch the invariants of the reset state; each of the six operations keeps the block's
invariant at every legal configuration. -/
theorem everyLegalConfigurationKeepsTheInvariant : Obligations.EveryLegalConfigurationKeepsTheInvariant := by
  refine ⟨fun c words n hc => ?_, fun c s hc hs => ⟨consumeByte_inv hs hc, startTransaction_inv hs, appendCommand_inv hs hc,
    appendPattern_inv hs hc, receiveReply_inv hs, tick_inv hs⟩⟩
  obtain ⟨hinv, hframe⟩ := resetOf_inv hc
  exact run_inv n (s := { State.resetOf c with bus := words }) hinv hframe

end Sys2Proof.Machine
end

section
/-! SUPPORT. Whole frames: a well-formed frame completes after any resynchronisation (R152), the CRC unit's value is its trailer
(R154), and a completed frame is out of reach of the next three bytes (R277). -/

namespace Sys2Proof.Machine

open Sys2Proof

/-! ## Runs keep the invariant and the parameters -/

theorem runOps_inv : ∀ (ops : List Instr) {s t : State}, s.Inv → runOps ops s = .next t → t.Inv ∧ t.cfg = s.cfg
  | [], s, t, hs, h => by cases h; exact ⟨hs, rfl⟩
  | i :: ops, s, t, hs, h => by
    obtain ⟨u, hu, ht⟩ := runOps_cons_next h
    obtain ⟨hinv, hcfg⟩ := runOps_inv ops (inv_of_exec hs hu) ht
    exact ⟨hinv, hcfg.trans (exec_cfg hu)⟩

/-! ## The trailer as bytes -/

/-- The four bytes of a value, put together again. -/
theorem append_trailer (v : Word) :
    v.extractLsb' 24 8 ++ v.extractLsb' 16 8 ++ v.extractLsb' 8 8 ++ v.extractLsb' 0 8 = v := by
  rw [BitVec.extractLsb'_append_extractLsb'_eq_extractLsb' (show 24 = 16 + 8 by decide),
    BitVec.extractLsb'_append_extractLsb'_eq_extractLsb' (show 16 = 8 + 8 by decide),
    BitVec.extractLsb'_append_extractLsb'_eq_extractLsb' (show 8 = 0 + 8 by decide), BitVec.extractLsb'_eq_self]

theorem frameBytes_length (h p : List Byte) : (frameBytes h p).length = h.length + p.length + 4 := by
  simp [frameBytes, trailerOf, Nat.add_assoc]

/-- A frame body with its checksum as the trailer, fed from SYNC1, completes at the last byte and at no other (R134, R135). -/
theorem feed_matching_frame {s : State} {h p : List Byte} {v : Word} (hs : s.Inv) (hd : s.block.dec.dstate = .sync1)
    (hbody : FrameBody s.cfg h p) (hv : v = crc32Frame h p) :
    (∀ k, 0 < k → k < h.length + p.length + 4 →
      ∃ u, feed ((h ++ p ++ trailerOf v).take k) s = .next u ∧ u.block.dec.decResult = 0) ∧
    ∃ t, feed (h ++ p ++ trailerOf v) s = .next t ∧ t.block.dec.decResult.toNat = h.length + p.length ∧
      t.block.dec.dstate = .sync1 ∧ t.block.crc = s.block.crc := by
  obtain ⟨hpart, t, ht, hsync, -, -, -, -, -, -, -, -, -, hcrc, -, -, -, hmatch, -⟩ :=
    framedBytesAreDecidedAtTheLastTrailerByte s h p (v.extractLsb' 0 8) (v.extractLsb' 8 8) (v.extractLsb' 16 8)
      (v.extractLsb' 24 8) hs hd hbody
  obtain ⟨hresult, -⟩ := hmatch ((append_trailer v).trans hv)
  refine ⟨fun k hpos hk => ?_, t, ht, hresult, hsync, hcrc⟩
  obtain ⟨u, hu, hzero, -⟩ := hpart k hpos hk
  exact ⟨u, hu, hzero⟩

/-! ## Resynchronisation (R152) -/

/-- Bytes without 0xAA leave SYNC1 as it is (R123). -/
theorem feed_without_preamble : ∀ (g : List Byte) {s : State}, s.block.dec.dstate = .sync1 → (∀ b ∈ g, b ≠ 0xAA) →
    ∃ u, feed g s = .next u ∧ u.block.dec.dstate = .sync1
  | [], s, hd, _ => ⟨s, rfl, hd⟩
  | b :: g, s, hd, hg => by
    obtain ⟨hb, hrest⟩ := List.forall_mem_cons.1 hg
    rw [feed_cons_of_next (exec_decByte_of_stepTo (decStep_sync1 _ b hd))]
    exact feed_without_preamble g (if_neg hb) hrest

/-- Settles O28: from SYNC1, however it was reached, the frame completes at its last byte. -/
theorem wellFormedFrameCompletesExactlyOnce : Obligations.WellFormedFrameCompletesExactlyOnce := by
  intro s g h p hs hbody hg
  obtain ⟨u, hu, hsync⟩ : ∃ u, feed g s = .next u ∧ u.block.dec.dstate = .sync1 := by
    rcases hg with hg | ⟨hd, hg⟩
    · exact hg
    · exact feed_without_preamble g hd hg
  obtain ⟨hinv, hcfg⟩ := runOps_inv _ hs hu
  rw [← hcfg] at hbody
  obtain ⟨hpart, t, ht, hresult, hd, -⟩ := feed_matching_frame hinv hsync hbody rfl
  have hpos : 0 < t.block.dec.decResult.toNat := by
    have h6 := six_le_hdrMinLen hinv.1
    obtain ⟨hmin, -⟩ := hbody
    omega
  refine ⟨fun k hk hlen => ?_, t, (feed_append_of_next hu _).trans ht, hresult, hpos, hd⟩
  rw [frameBytes_length] at hlen
  rw [feed_append_of_next hu]
  exact hpart k hk hlen

/-! ## The CRC unit's value as the trailer (R154) -/

/-- Settles O31: CRC.BLOCK leaves the decoder in SYNC1 and returns the two-stage checksum, whose bytes are the trailer. -/
theorem crcUnitTrailerMakesTheDecoderMatch : Obligations.CrcUnitTrailerMakesTheDecoderMatch := by
  intro s h p hs hd hbody
  have hrun := runOps_crcBlock 0 (h ++ p) s
  obtain ⟨hinv, hcfg⟩ := runOps_inv _ hs hrun
  rw [← hcfg] at hbody
  obtain ⟨-, t, ht, hresult, -, hcrc⟩ := feed_matching_frame hinv hd hbody (crc32Frame_eq_block h p).symm
  exact ⟨_, t, _, hrun, rfl, ht, hresult, hcrc⟩

/-! ## The three bytes after a completion (R277) -/

/-- From SYNC1 a byte leads at most one state further, so the header-length byte of a new frame is the fourth at the earliest. -/
def DState.syncDepth : DState → Nat
  | .sync1 => 0
  | .sync2 => 1
  | .sync3 => 2
  | _ => 3

/-- Before HDRLEN every byte is answered, keeps the frame and leads at most one state further. -/
theorem decStep_of_syncDepth (c : Config) (b : Byte) {d : Decoder} (hd : d.dstate.syncDepth < 3) :
    ∃ r, decStep c b d = .ok r ∧ r.dec.frameElements = d.frameElements ∧ r.dec.dstate.syncDepth ≤ d.dstate.syncDepth + 1 := by
  cases hs : d.dstate with rw [hs] at hd
  | sync1 =>
    refine ⟨_, decStep_sync1 c b hs, rfl, ?_⟩
    change (if b = 0xAA then DState.sync2 else .sync1).syncDepth ≤ 1
    split <;> decide
  | sync2 =>
    refine ⟨_, decStep_sync2 c b hs, ?_⟩
    split <;> exact ⟨rfl, by simp [stepTo, Decoder.restart, DState.syncDepth]⟩
  | sync3 =>
    refine ⟨_, decStep_sync3 c b hs, ?_⟩
    split <;> exact ⟨rfl, by simp [stepTo, Decoder.restart, DState.syncDepth]⟩
  | hdrlen | hdr | pay | ck1 | ck2 | ck3 | ck4 => exact absurd hd (by decide)

theorem feed_keeps_frame : ∀ (bs : List Byte) (s : State), s.block.dec.dstate.syncDepth + bs.length ≤ 3 →
    ∃ t, feed bs s = .next t ∧ t.block.dec.frameElements = s.block.dec.frameElements
  | [], s, _ => ⟨s, rfl, rfl⟩
  | b :: bs, s, hlen => by
    rw [List.length_cons] at hlen
    obtain ⟨r, hr, hframe, hdepth⟩ := decStep_of_syncDepth s.cfg b (d := s.block.dec) (by omega)
    obtain ⟨t, ht, hrest⟩ := feed_keeps_frame bs (s.decoded { r.dec with decResult := r.result } r.frameDone r.event)
      (le_trans (Nat.add_le_add_right hdepth _) (by omega))
    exact ⟨t, (feed_cons_of_next (exec_decByte_of_step hr) bs).trans ht, hrest.trans hframe⟩

/-- Settles O34: three bytes from SYNC1 go as far as HDRLEN. -/
theorem completedFrameSurvivesThreeBytes : Obligations.CompletedFrameSurvivesThreeBytes := by
  intro s bs hd hvalid hlen
  obtain ⟨t, ht, hframe⟩ := feed_keeps_frame bs s (by rw [hd]; exact (Nat.zero_add _).trans_le hlen)
  simp only [Decoder.frameElements, Prod.mk.injEq] at hframe
  obtain ⟨hv, hhdr, hpay, hhlen, hmlen, -, -⟩ := hframe
  exact ⟨t, ht, hv.trans hvalid, hhdr, hpay, hhlen, hmlen⟩

end Sys2Proof.Machine
end

section
/-! SUPPORT. Detection (R151): the decoder's state says which bytes it has taken since SYNC1 (`Decoder.Taken`), so that at an
accepted trailer these bytes and the last one are a well-formed frame. -/

namespace Sys2Proof.Machine

open Sys2Proof

/-! ## The bytes taken since SYNC1 -/

/-- The bytes taken since the decoder was last in SYNC1 are `bs`: the preamble so far, then what the buffers hold, then the
trailer bytes that `rx_crc` was assembled from. -/
def Decoder.Taken (d : Decoder) (bs : List Byte) : Prop :=
  match d.dstate with
  | .sync1 => bs = []
  | .sync2 => bs = [0xAA]
  | .sync3 => bs = [0xAA, 0x44]
  | .hdrlen => bs = [0xAA, 0x44, 0xB5]
  | .hdr => bs = Memory.bytes d.hdr d.read.toNat
  | .pay => bs = d.header ++ Memory.bytes d.pay (d.read.toNat - d.hdrLen.toNat)
  | .ck1 => bs = d.header ++ d.payload
  | .ck2 => ∃ b0 : Byte, bs = d.header ++ d.payload ++ [b0] ∧ d.rxCrc = b0.zeroExtend 32
  | .ck3 => ∃ b0 b1 : Byte, bs = d.header ++ d.payload ++ [b0, b1] ∧
      d.rxCrc = b0.zeroExtend 32 ||| (b1.zeroExtend 32 <<< 8)
  | .ck4 => ∃ b0 b1 b2 : Byte, bs = d.header ++ d.payload ++ [b0, b1, b2] ∧
      d.rxCrc = b0.zeroExtend 32 ||| (b1.zeroExtend 32 <<< 8) ||| (b2.zeroExtend 32 <<< 16)

theorem taken_of_sync1 {d : Decoder} (hd : d.dstate = .sync1) : d.Taken [] := by
  rw [Decoder.Taken, hd]

theorem taken_of_hdr {d : Decoder} {bs : List Byte} (hd : d.dstate = .hdr) (h : Memory.bytes d.hdr d.read.toNat = bs) :
    d.Taken bs := by
  rw [Decoder.Taken, hd, h]

theorem taken_of_pay {d : Decoder} {bs : List Byte} (hd : d.dstate = .pay)
    (h : d.header ++ Memory.bytes d.pay (d.read.toNat - d.hdrLen.toNat) = bs) : d.Taken bs := by
  rw [Decoder.Taken, hd, h]

theorem taken_of_ck1 {d : Decoder} {bs : List Byte} (hd : d.dstate = .ck1) (h : d.header ++ d.payload = bs) : d.Taken bs := by
  rw [Decoder.Taken, hd, h]

theorem toNat_zeroExtend_byte (n : Byte) : (n.zeroExtend 32).toNat = n.toNat := BitVec.toNat_setWidth_of_le (by decide)

section Byte

variable {c : Config} {d : Decoder} {bs : List Byte} (b : Byte) (hc : c.Legal) (hinv : d.Inv c) (ht : d.Taken bs)
include hc hinv ht

/-- A header byte is taken behind the others (R127). -/
theorem taken_storesHeader (hd : d.dstate = .hdr) :
    Memory.bytes (Memory.write d.hdr d.read.toNat b) (d.read + 1).toNat = bs ++ [b] := by
  obtain ⟨-, hcap, -⟩ := counts_of_hdr hinv hd
  obtain ⟨⟨-, h255⟩, -⟩ := hc
  obtain ⟨-, -, hh, -⟩ := hinv
  rw [Decoder.Taken, hd] at ht
  rw [toNat_succ (by omega), Memory.bytes_write_succ _ 0 _ b (Memory.wf_from hh), ht]

/-- The last header byte leads to the state that takes the payload, or to the trailer (R128). -/
theorem taken_completesHeader (hd : d.dstate = .hdr) (heq : d.read + 1 = d.hdrLen.zeroExtend 32) :
    (headerDone c { d with hdr := Memory.write d.hdr d.read.toNat b, read := d.read + 1 }).Taken (bs ++ [b]) := by
  have hread : (d.read + 1).toNat = d.hdrLen.toNat := by rw [heq, toNat_zeroExtend_byte]
  have hheader : Memory.bytes (Memory.write d.hdr d.read.toNat b) d.hdrLen.toNat = bs ++ [b] := by
    rw [← hread, taken_storesHeader b hc hinv ht hd]
  by_cases hmsg : le16 (Memory.write d.hdr d.read.toNat b) c.msglenOffset = 0
  · refine taken_of_ck1 (if_pos hmsg) ?_
    have hpayload : Memory.bytes d.pay (le16 (Memory.write d.hdr d.read.toNat b) c.msglenOffset).toNat = [] := by
      rw [hmsg]
      rfl
    exact (congrArg₂ (· ++ ·) hheader hpayload).trans (List.append_nil _)
  · refine taken_of_pay (if_neg hmsg) ?_
    have hpayload : Memory.bytes d.pay ((d.read + 1).toNat - d.hdrLen.toNat) = [] := by
      rw [hread, Nat.sub_self, Memory.bytes_zero]
    exact (congrArg₂ (· ++ ·) hheader hpayload).trans (List.append_nil _)

/-- A payload byte is taken behind the others (R129). -/
theorem taken_storesPayload (hd : d.dstate = .pay) :
    d.header ++ Memory.bytes (Memory.write d.pay (d.read - d.hdrLen.zeroExtend 32).toNat b) ((d.read + 1).toNat - d.hdrLen.toNat) =
      bs ++ [b] := by
  obtain ⟨-, hcap, hle, -, hroom⟩ := counts_of_pay hinv hd
  obtain ⟨⟨-, h255⟩, ⟨-, h65535⟩, -⟩ := hc
  obtain ⟨-, -, -, hp⟩ := hinv
  rw [Decoder.Taken, hd] at ht
  have hnext : (d.read + 1).toNat - d.hdrLen.toNat = d.read.toNat - d.hdrLen.toNat + 1 := by
    rw [toNat_succ (by omega)]
    omega
  rw [hnext, toNat_payloadIndex hle, Memory.bytes_write_succ _ 0 _ b (Memory.wf_from hp), ht, List.append_assoc]

theorem taken_completesPayload (hd : d.dstate = .pay) (heq : d.read + 1 = d.hdrLen.zeroExtend 32 + d.msgLen.zeroExtend 32) :
    d.header ++ Memory.bytes (Memory.write d.pay (d.read - d.hdrLen.zeroExtend 32).toNat b) d.msgLen.toNat = bs ++ [b] := by
  have hpayload := taken_storesPayload b hc hinv ht hd
  rwa [heq, toNat_frameLength, Nat.add_sub_cancel_left] at hpayload

/-- Every byte either is taken behind the others or leaves the decoder in SYNC1. -/
theorem byteEffect_taken {r : DecStep} (hr : ByteEffect c b d r) : r.dec.Taken (bs ++ [b]) ∨ r.dec.dstate = .sync1 := by
  cases hr with
  | ignored hd => exact .inr hd
  | restarts | drops | accepts | rejects => exact .inr rfl
  | sync1 hd hb | sync2 hd hb | sync3 hd hb =>
    rw [Decoder.Taken, hd] at ht
    subst ht hb
    exact .inl rfl
  | seeds hd =>
    have h6 := six_le_hdrMinLen hc
    obtain ⟨⟨hcap, -⟩, -⟩ := hc
    obtain ⟨-, -, hh, -⟩ := hinv
    rw [Decoder.Taken, hd] at ht
    subst ht
    exact .inl (bytes_seedHeader b hh (by omega)).symm
  | storesHeader hd hne => exact .inl (taken_of_hdr hd (taken_storesHeader b hc hinv ht hd))
  | completesHeader hd heq => exact .inl (taken_completesHeader b hc hinv ht hd heq)
  | storesPayload hd hne => exact .inl (taken_of_pay hd (taken_storesPayload b hc hinv ht hd))
  | completesPayload hd heq => exact .inl (taken_of_ck1 rfl (taken_completesPayload b hc hinv ht hd heq))
  | ck1 hd =>
    rw [Decoder.Taken, hd] at ht
    subst ht
    exact .inl ⟨b, rfl, rfl⟩
  | ck2 hd =>
    rw [Decoder.Taken, hd] at ht
    obtain ⟨b0, rfl, hrx⟩ := ht
    exact .inl ⟨b0, b, by simp [stepTo, Decoder.header, Decoder.payload], by simp [stepTo, hrx]⟩
  | ck3 hd =>
    rw [Decoder.Taken, hd] at ht
    obtain ⟨b0, b1, rfl, hrx⟩ := ht
    exact .inl ⟨b0, b1, b, by simp [stepTo, Decoder.header, Decoder.payload], by simp [stepTo, hrx]⟩

end Byte

/-! ## The accepted trailer -/

/-- The bytes of an assembled trailer. -/
theorem trailerOf_append (b0 b1 b2 b3 : Byte) : trailerOf (b3 ++ b2 ++ b1 ++ b0) = [b0, b1, b2, b3] := by
  have h0 : (b3 ++ b2 ++ b1 ++ b0).extractLsb' 0 8 = b0 := BitVec.extractLsb'_append_eq_right
  have h1 : (b3 ++ b2 ++ b1 ++ b0).extractLsb' 8 8 = b1 := by
    rw [BitVec.extractLsb'_append_eq_of_le (by decide)]
    exact BitVec.extractLsb'_append_eq_right
  have h2 : (b3 ++ b2 ++ b1 ++ b0).extractLsb' 16 8 = b2 := by
    rw [BitVec.extractLsb'_append_eq_of_le (by decide), BitVec.extractLsb'_append_eq_of_le (by decide)]
    exact BitVec.extractLsb'_append_eq_right
  have h3 : (b3 ++ b2 ++ b1 ++ b0).extractLsb' 24 8 = b3 := by
    rw [BitVec.extractLsb'_append_eq_of_le (by decide), BitVec.extractLsb'_append_eq_of_le (by decide),
      BitVec.extractLsb'_append_eq_of_le (by decide)]
    exact BitVec.extractLsb'_eq_self
  rw [trailerOf, h0, h1, h2, h3]

/-- Only an accepted trailer gives a positive result (R134, R135). -/
theorem byteEffect_positive {c : Config} {b : Byte} {d : Decoder} {r : DecStep} (hr : ByteEffect c b d r) (hres : r.result ≠ 0) :
    d.dstate = .ck4 ∧ crc32Frame d.header d.payload = d.rxCrc ||| (b.zeroExtend 32 <<< 24) ∧ r.result = d.read := by
  cases hr with
  | accepts hd hcrc => exact ⟨hd, hcrc, rfl⟩
  | _ => exact absurd rfl hres

/-- With the accepted byte the bytes taken are the well-formed frame of what the buffers hold (R133, R151). -/
theorem frameBytes_of_accepted {d : Decoder} {bs : List Byte} {b : Byte} (hd : d.dstate = .ck4) (ht : d.Taken bs)
    (hcrc : crc32Frame d.header d.payload = d.rxCrc ||| (b.zeroExtend 32 <<< 24)) :
    bs ++ [b] = frameBytes d.header d.payload := by
  rw [Decoder.Taken, hd] at ht
  obtain ⟨b0, b1, b2, rfl, hrx⟩ := ht
  rw [frameBytes, hcrc, hrx, ← assembled_trailer, trailerOf_append]
  simp

/-! ## The history of a run -/

/-- Since some moment of the run in SYNC1 the DEC.BYTE operands are the bytes taken. -/
def TracedBack (start : State) (first : Instr) (ops : List Instr) (d : Decoder) : Prop :=
  ∃ (before cur : List Instr) (u : State), ops = before ++ cur ∧ runOps (first :: before) start = .next u ∧
    u.block.dec.dstate = .sync1 ∧ d.Taken (cur.filterMap decOperand)

/-- The last DEC.BYTE operands are a well-formed frame of `n` bytes before the trailer, begun in SYNC1. -/
def EndsInFrame (start : State) (first : Instr) (ops : List Instr) (n : Nat) : Prop :=
  ∃ (before frame : List Instr) (u : State) (h p : List Byte), ops = before ++ frame ∧
    runOps (first :: before) start = .next u ∧ u.block.dec.dstate = .sync1 ∧ FrameBody start.cfg h p ∧
    frame.filterMap decOperand = frameBytes h p ∧ h.length + p.length = n

/-- What is known after the operations of a run. -/
structure History (start : State) (first : Instr) (ops : List Instr) (t : State) : Prop where
  inv : t.Inv
  frameInv : t.FrameInv
  cfg : t.cfg = start.cfg
  traced : TracedBack start first ops t.block.dec
  framed : t.block.dec.decResult ≠ 0 → EndsInFrame start first ops t.block.dec.decResult.toNat

/-- A run that answers a state is a run of all but its last operation, and that operation. -/
theorem runOps_snoc_next : ∀ {is : List Instr} {i : Instr} {s t : State}, runOps (is ++ [i]) s = .next t →
    ∃ u, runOps is s = .next u ∧ exec i u = .next t
  | [], i, s, t, h => by
    obtain ⟨u, hu, ht⟩ := runOps_cons_next h
    cases ht
    exact ⟨s, rfl, hu⟩
  | j :: is, i, s, t, h => by
    obtain ⟨v, hv, hrest⟩ := runOps_cons_next h
    obtain ⟨u, hu, ht⟩ := runOps_snoc_next hrest
    exact ⟨u, by rw [runOps, hv]; exact hu, ht⟩

theorem filterMap_decOperand_snoc_none {i : Instr} (hi : decOperand i = none) (is : List Instr) :
    (is ++ [i]).filterMap decOperand = is.filterMap decOperand := by
  simp [List.filterMap_append, hi]

theorem filterMap_decOperand_snoc_byte (b : Byte) (is : List Instr) :
    (is ++ [Instr.decByte b]).filterMap decOperand = is.filterMap decOperand ++ [b] := by
  simp [List.filterMap_append, decOperand]

section History

variable {start u t : State} {first : Instr} {ops : List Instr}

theorem tracedBack_snoc_none {i : Instr} {d e : Decoder} (h : TracedBack start first ops d) (hi : decOperand i = none)
    (hd : ∀ bs, d.Taken bs → e.Taken bs) : TracedBack start first (ops ++ [i]) e := by
  obtain ⟨before, cur, v, rfl, hv, hsync, htaken⟩ := h
  refine ⟨before, cur ++ [i], v, List.append_assoc _ _ _, hv, hsync, ?_⟩
  rw [filterMap_decOperand_snoc_none hi]
  exact hd _ htaken

theorem endsInFrame_snoc_none {i : Instr} {n : Nat} (h : EndsInFrame start first ops n) (hi : decOperand i = none) :
    EndsInFrame start first (ops ++ [i]) n := by
  obtain ⟨before, frame, v, h, p, rfl, hv, hsync, hbody, hframe, hn⟩ := h
  exact ⟨before, frame ++ [i], v, h, p, List.append_assoc _ _ _, hv, hsync, hbody,
    (filterMap_decOperand_snoc_none hi frame).trans hframe, hn⟩

/-- A DEC.BYTE extends the trace by its byte, or starts a new one in SYNC1; a positive result closes a well-formed frame. -/
theorem traced_decByte {b : Byte} {r : DecStep} (hist : History start first ops u)
    (hrun : runOps (first :: ops ++ [.decByte b]) start = .next t) (hr : ByteEffect u.cfg b u.block.dec r)
    (ht : t.block.dec = { r.dec with decResult := r.result }) :
    TracedBack start first (ops ++ [.decByte b]) t.block.dec ∧
    (t.block.dec.decResult ≠ 0 → EndsInFrame start first (ops ++ [.decByte b]) t.block.dec.decResult.toNat) := by
  obtain ⟨⟨hc, hdec, -⟩, ⟨hin, -⟩, hcfg, ⟨before, cur, v, rfl, hv, hsync, htaken⟩, -⟩ := hist
  rw [ht]
  refine ⟨?_, fun hres => ?_⟩
  · rcases byteEffect_taken b hc hdec htaken hr with hnext | hnew
    · refine ⟨before, cur ++ [.decByte b], v, List.append_assoc _ _ _, hv, hsync, ?_⟩
      rw [filterMap_decOperand_snoc_byte]
      exact hnext
    · exact ⟨_, [], t, (List.append_nil _).symm, hrun, by rw [ht]; exact hnew, taken_of_sync1 hnew⟩
  · obtain ⟨hd, hcrc, hread⟩ := byteEffect_positive hr hres
    have htrailer : u.block.dec.dstate.inTrailer = true := by rw [hd]; rfl
    obtain ⟨-, -, -, hlen⟩ := counts_of_trailer hdec htrailer
    refine ⟨before, cur ++ [.decByte b], v, u.block.dec.header, u.block.dec.payload, List.append_assoc _ _ _, hv, hsync,
      ?_, ?_, ?_⟩
    · rw [← hcfg]
      exact frameBody_of_trailer hc hdec hin htrailer
    · rw [filterMap_decOperand_snoc_byte]
      exact frameBytes_of_accepted hd htaken hcrc
    · rw [Decoder.header, Decoder.payload, Memory.bytes_length, Memory.bytes_length, ← hlen, hread]

/-- One more operation of the run, neither CTL.DECRST nor CTL.RESET. -/
theorem history_snoc {i : Instr} (hist : History start first ops u) (hu : runOps (first :: ops) start = .next u)
    (h : exec i u = .next t) (hdecrst : i ≠ .ctlDecrst) (hreset : i ≠ .ctlReset) : History start first (ops ++ [i]) t := by
  have hrun : runOps (first :: ops ++ [i]) start = .next t := by
    rw [runOps_append _ _ hu, runOps, h]
    rfl
  have hgoal : TracedBack start first (ops ++ [i]) t.block.dec ∧
      (t.block.dec.decResult ≠ 0 → EndsInFrame start first (ops ++ [i]) t.block.dec.decResult.toNat) := by
    have hw := exec_decoderWrite h
    generalize he : t.block.dec = e at hw
    cases hw with
    | keeps hi => exact ⟨tracedBack_snoc_none hist.traced hi fun _ h => h, fun hr => endsInFrame_snoc_none (hist.framed hr) hi⟩
    | clearsCounts | selects =>
      exact ⟨tracedBack_snoc_none hist.traced rfl fun _ h => h, fun hr => endsInFrame_snoc_none (hist.framed hr) rfl⟩
    | resets => exact absurd rfl hreset
    | restarts => exact absurd rfl hdecrst
    | decodes hr =>
      rw [← he]
      exact traced_decByte hist hrun (decStep_effect hr) he
  obtain ⟨htraced, hframed⟩ := hgoal
  exact ⟨inv_of_exec hist.inv h, frameInv_of_exec hist.inv hist.frameInv h, (exec_cfg h).trans hist.cfg, htraced, hframed⟩

end History

/-- CTL.DECRST and CTL.RESET start a run in SYNC1 with nothing taken and no result. -/
theorem history_start {start u : State} {first : Instr} (hs : start.Inv) (hf : first = .ctlDecrst ∨ first = .ctlReset)
    (h : exec first start = .next u) : History start first [] u := by
  have hrun : runOps [first] start = .next u := by
    rw [runOps, h]
    rfl
  obtain ⟨hsync, hvalid, hresult⟩ :
      u.block.dec.dstate = .sync1 ∧ u.block.dec.frameValid = false ∧ u.block.dec.decResult = 0 := by
    rcases hf with rfl | rfl <;> cases h <;> exact ⟨rfl, rfl, rfl⟩
  have hframe : u.FrameInv := ⟨inFrame_of_beforeHeader (by rw [hsync]; rfl), retainsFrame_of_invalid hvalid⟩
  exact ⟨inv_of_exec hs h, hframe, exec_cfg h, ⟨[], [], u, rfl, hrun, hsync, taken_of_sync1 hsync⟩,
    fun hne => absurd hresult hne⟩

/-- The history of every run that starts with CTL.DECRST or CTL.RESET and holds neither after it. -/
theorem history_of_run {start : State} {first : Instr} (hs : start.Inv) (hf : first = .ctlDecrst ∨ first = .ctlReset)
    (ops : List Instr) : ∀ {t : State}, (∀ i ∈ ops, i ≠ .ctlDecrst ∧ i ≠ .ctlReset) → runOps (first :: ops) start = .next t →
    History start first ops t := by
  induction ops using List.reverseRecOn with
  | nil =>
    intro t _ h
    obtain ⟨u, hu, ht⟩ := runOps_cons_next h
    cases ht
    exact history_start hs hf hu
  | append_singleton ops i ih =>
    intro t hops h
    obtain ⟨u, hu, ht⟩ := runOps_snoc_next (is := first :: ops) h
    obtain ⟨hdecrst, hreset⟩ := hops i (by simp)
    exact history_snoc (ih (fun j hj => hops j (by simp [hj])) hu) hu ht hdecrst hreset

/-- Settles O29: the history of the run, at its end. -/
theorem positiveResultOnlyAfterAWellFormedFrame : Obligations.PositiveResultOnlyAfterAWellFormedFrame := fun _ _ ops _ hs hf hops h hres =>
  (history_of_run hs hf ops hops h).framed hres

end Sys2Proof.Machine
end

section
/-! SUPPORT. What an operation can do to the arbiter and to `tx`, said once (`ArbiterWrite`, R174 to R185), and what follows of the
waiting transaction and of who writes what. -/

namespace Sys2Proof.Machine

open Sys2Proof

/-! ## The writes of the arbiter -/

/-- The ways an operation leaves the arbiter, with the bytes it emits. -/
inductive ArbiterWrite (s : State) : Instr → Arbiter → List Byte → Prop
  | keeps {i : Instr} : ArbiterWrite s i s.block.arb []
  | resets : ArbiterWrite s .ctlReset Arbiter.reset []
  | starts (hw : s.block.arb.astate ≠ .wait) : ArbiterWrite s .arbStart (started s).block.arb s.block.arb.command
  | aborts (hw : s.block.arb.astate = .wait) : ArbiterWrite s .arbAbort { s.block.arb with astate := .aborted } []
  | ioErrors (hw : s.block.arb.astate = .wait) : ArbiterWrite s .arbIoerr { s.block.arb with astate := .ioerr } []
  | clearsCommand (hw : s.block.arb.astate ≠ .wait) : ArbiterWrite s .arbClrcmd { s.block.arb with cmdLen := 0 } []
  | clearsPattern (hw : s.block.arb.astate ≠ .wait) :
      ArbiterWrite s .arbClrpat { s.block.arb with patLen := 0, matchLen := 0 } []
  | setsBudget {v : Word} (hw : s.block.arb.astate ≠ .wait) : ArbiterWrite s (.arbBudget v) { s.block.arb with budget := v } []
  | setsTries {n : Byte} (hw : s.block.arb.astate ≠ .wait) :
      ArbiterWrite s (.arbTries n) { s.block.arb with maxTries := triesValue n } []
  | appendsCommand {b : Byte} (hw : s.block.arb.astate ≠ .wait) : ArbiterWrite s (.arbCmd b) { s.block.arb with
      cmd := Memory.write s.block.arb.cmd s.block.arb.cmdLen.toNat b, cmdLen := s.block.arb.cmdLen + 1 } []
  | appendsPattern {b : Byte} (hw : s.block.arb.astate ≠ .wait) : ArbiterWrite s (.arbPat b) { s.block.arb with
      pat := Memory.write s.block.arb.pat s.block.arb.patLen.toNat b, patLen := s.block.arb.patLen + 1 } []
  | receives {b : Byte} (hw : s.block.arb.astate = .wait) : ArbiterWrite s (.arbRx b) (received b s).block.arb []
  | ticks {d : Word} (hw : s.block.arb.astate = .wait) : ArbiterWrite s (.arbTick d) (s.block.arb.ticked d) []
  | resends {d : Word} (hw : s.block.arb.astate = .wait) (ha : s.block.arb.attempts < s.block.arb.maxTries) :
      ArbiterWrite s (.arbTick d)
        { s.block.arb with attempts := s.block.arb.attempts + 1, elapsed := 0, matchLen := 0 } s.block.arb.command
  | timesOut {d : Word} (hw : s.block.arb.astate = .wait) :
      ArbiterWrite s (.arbTick d) { s.block.arb.ticked d with astate := .timeout } []

/-- An operation left the arbiter and `tx` in one of these ways. -/
def WritesArbiter (i : Instr) (s t : State) : Prop := ∃ bs, t.tx = s.tx ++ bs ∧ ArbiterWrite s i t.block.arb bs

theorem writesArbiter_quiet {i : Instr} {s t : State} (htx : t.tx = s.tx) (h : ArbiterWrite s i t.block.arb []) :
    WritesArbiter i s t := ⟨[], by rw [htx, List.append_nil], h⟩

theorem writesArbiter_raise {i : Instr} {s : State} {k : Event} : WritesArbiter i s (s.raise k) :=
  writesArbiter_quiet rfl .keeps

/-- An operation under the busy rule that otherwise writes one arbiter. -/
theorem writesArbiter_unlessWaiting {i : Instr} {s t : State} {a : Arbiter}
    (h : outcome (unlessWaiting s (.ok (s.setArb a).done)) = .next t)
    (ha : s.block.arb.astate ≠ .wait → ArbiterWrite s i a []) : WritesArbiter i s t := by
  rcases unlessWaiting_ok (outcome_eq_next.1 h) with ⟨_, rfl⟩ | ⟨hw, ht⟩
  · exact writesArbiter_raise
  · cases ht
    exact writesArbiter_quiet rfl (ha hw)

/-- An operation that writes one arbiter in WAIT and is ignored elsewhere. -/
theorem writesArbiter_onlyWaiting {i : Instr} {s t : State} {a : Arbiter}
    (h : outcome (onlyWaiting s (.ok (s.setArb a).done)) = .next t)
    (ha : s.block.arb.astate = .wait → ArbiterWrite s i a []) : WritesArbiter i s t := by
  rcases onlyWaiting_ok (outcome_eq_next.1 h) with ⟨hw, ht⟩ | ⟨_, rfl⟩
  · cases ht
    exact writesArbiter_quiet rfl (ha hw)
  · exact writesArbiter_quiet rfl .keeps

theorem writesArbiter_arbStart {s t : State} (h : exec .arbStart s = .next t) : WritesArbiter .arbStart s t := by
  rcases startTransaction_ok (outcome_eq_next.1 h) with ⟨_, rfl⟩ | ⟨hw, _, rfl⟩
  · exact writesArbiter_raise
  · exact ⟨s.block.arb.command, rfl, .starts hw⟩

theorem writesArbiter_arbCmd {b : Byte} {s t : State} (h : exec (.arbCmd b) s = .next t) : WritesArbiter (.arbCmd b) s t := by
  rcases appendCommand_ok (outcome_eq_next.1 h) with ⟨_, rfl⟩ | ⟨_, _, rfl⟩ | ⟨hw, _, rfl⟩
  · exact writesArbiter_raise
  · exact writesArbiter_raise
  · exact writesArbiter_quiet rfl (.appendsCommand hw)

theorem writesArbiter_arbPat {b : Byte} {s t : State} (h : exec (.arbPat b) s = .next t) : WritesArbiter (.arbPat b) s t := by
  rcases appendPattern_ok (outcome_eq_next.1 h) with ⟨_, rfl⟩ | ⟨_, _, rfl⟩ | ⟨hw, _, rfl⟩
  · exact writesArbiter_raise
  · exact writesArbiter_raise
  · exact writesArbiter_quiet rfl (.appendsPattern hw)

theorem writesArbiter_arbRx {b : Byte} {s t : State} (h : exec (.arbRx b) s = .next t) : WritesArbiter (.arbRx b) s t := by
  rcases receiveReply_ok (outcome_eq_next.1 h) with ⟨_, rfl⟩ | ⟨hw, _, rfl⟩
  · exact writesArbiter_quiet rfl .keeps
  · exact writesArbiter_quiet rfl (.receives hw)

theorem writesArbiter_arbTick {d : Word} {s t : State} (h : exec (.arbTick d) s = .next t) : WritesArbiter (.arbTick d) s t := by
  rcases tick_ok (outcome_eq_next.1 h) with ⟨_, rfl⟩ | ⟨hw, _, rfl⟩ | ⟨hw, _, ha, _, rfl⟩ | ⟨hw, _, _, rfl⟩
  · exact writesArbiter_quiet rfl .keeps
  · exact writesArbiter_quiet rfl (.ticks hw)
  · exact ⟨s.block.arb.command, rfl, .resends hw ha⟩
  · exact writesArbiter_quiet rfl (.timesOut hw)

/-- The inversion of `exec` for the arbiter. -/
theorem exec_writesArbiter {i : Instr} {s t : State} (h : exec i s = .next t) : WritesArbiter i s t := by
  by_cases hi : i.isWrite = false
  · obtain ⟨v, hv⟩ := exec_read hi s
    cases h.symm.trans hv
    exact writesArbiter_quiet rfl .keeps
  · cases i with
    | ctlReset => cases h; exact writesArbiter_quiet rfl .resets
    | ctlDecrst | ctlClrerr | ctlClrcnt | fbufSel | crcSeed | crcByte | wrIllegal =>
      cases h
      exact writesArbiter_quiet rfl .keeps
    | decByte b =>
      obtain ⟨r, _, rfl⟩ := consumeByte_ok (outcome_eq_next.1 h)
      exact writesArbiter_quiet rfl .keeps
    | arbStart => exact writesArbiter_arbStart h
    | arbCmd => exact writesArbiter_arbCmd h
    | arbPat => exact writesArbiter_arbPat h
    | arbRx => exact writesArbiter_arbRx h
    | arbTick => exact writesArbiter_arbTick h
    | arbAbort => exact writesArbiter_onlyWaiting h .aborts
    | arbIoerr => exact writesArbiter_onlyWaiting h .ioErrors
    | arbClrcmd => exact writesArbiter_unlessWaiting h .clearsCommand
    | arbClrpat => exact writesArbiter_unlessWaiting h .clearsPattern
    | arbBudget => exact writesArbiter_unlessWaiting h .setsBudget
    | arbTries => exact writesArbiter_unlessWaiting h .setsTries
    | _ => exact absurd rfl hi

/-! ## The waiting transaction -/

/-- An operation from WAIT that stays in WAIT: what of the arbiter it cannot change, and what it sends. -/
theorem stays_waiting {i : Instr} {s : State} {a : Arbiter} {bs : List Byte} (h : ArbiterWrite s i a bs)
    (hw : s.block.arb.astate = .wait) (ha : a.astate = .wait) :
    a.cmd = s.block.arb.cmd ∧ a.cmdLen = s.block.arb.cmdLen ∧ a.pat = s.block.arb.pat ∧ a.patLen = s.block.arb.patLen ∧
      a.budget = s.block.arb.budget ∧ a.maxTries = s.block.arb.maxTries ∧ (bs = [] ∨ bs = s.block.arb.command) := by
  cases h with
  | keeps | receives | ticks => exact ⟨rfl, rfl, rfl, rfl, rfl, rfl, .inl rfl⟩
  | resends => exact ⟨rfl, rfl, rfl, rfl, rfl, rfl, .inr rfl⟩
  | resets | aborts | ioErrors | timesOut => cases ha
  | starts hn | clearsCommand hn | clearsPattern hn | setsBudget hn | setsTries hn | appendsCommand hn | appendsPattern hn =>
    exact absurd hw hn

/-- Settles O49: the writes from WAIT that stay in WAIT. -/
theorem waitingTransactionKeepsItsConfiguration : Obligations.WaitingTransactionKeepsItsConfiguration := by
  intro i s t hw h ht
  obtain ⟨bs, htx, harb⟩ := exec_writesArbiter h
  obtain ⟨hcmd, hcmdLen, hpat, hpatLen, hbudget, htries, hsent⟩ := stays_waiting harb hw ht
  refine ⟨hcmd, hcmdLen, hpat, hpatLen, hbudget, htries, ?_⟩
  rcases hsent with rfl | rfl
  · exact .inl (htx.trans (List.append_nil _))
  · exact .inr htx

/-- Only ARB.START enters WAIT. -/
theorem wait_of_arbiterWrite {i : Instr} {s : State} {a : Arbiter} {bs : List Byte} (h : ArbiterWrite s i a bs)
    (hi : i ≠ .arbStart) (ha : a.astate = .wait) : s.block.arb.astate = .wait := by
  cases h with
  | starts => exact absurd rfl hi
  | resets => cases ha
  | aborts hw | ioErrors hw | receives hw | ticks hw | resends hw | timesOut hw => exact hw
  | keeps | clearsCommand | clearsPattern | setsBudget | setsTries | appendsCommand | appendsPattern => exact ha

/-- Every operation but ARB.START either emits nothing, and counts no attempt of a transaction that waits, or counts one
more attempt within the tries and sends the command. -/
theorem sends_of_arbiterWrite {i : Instr} {s : State} {a : Arbiter} {bs : List Byte} (h : ArbiterWrite s i a bs)
    (hi : i ≠ .arbStart) :
    (bs = [] ∧ (a.astate = .wait → a.attempts = s.block.arb.attempts)) ∨
    (s.block.arb.astate = .wait ∧ bs = s.block.arb.command ∧ a.attempts = s.block.arb.attempts + 1 ∧
      s.block.arb.attempts < s.block.arb.maxTries) := by
  cases h with
  | starts => exact absurd rfl hi
  | resends hw hlt => exact .inr ⟨hw, rfl, rfl, hlt⟩
  | resets => exact .inl ⟨rfl, fun ha => by cases ha⟩
  | _ => exact .inl ⟨rfl, fun _ => rfl⟩

/-- After an ARB.START in `s`: the command was sent between once and `max_tries` times, and while the transaction waits the
attempt counter says how often. -/
def SentSoFar (s t : State) : Prop :=
  ∃ n, 1 ≤ n ∧ n ≤ s.block.arb.maxTries.toNat ∧ t.tx = s.tx ++ (List.replicate n s.block.arb.command).flatten ∧
    (t.block.arb.astate = .wait → t.block.arb.command = s.block.arb.command ∧ t.block.arb.maxTries = s.block.arb.maxTries ∧
      t.block.arb.attempts.toNat = n)

theorem sentSoFar_start {s t : State} (hs : s.Inv) (hw : s.block.arb.astate ≠ .wait) (h : exec .arbStart s = .next t) :
    SentSoFar s t := by
  obtain ⟨-, -, -, -, htries, -⟩ := hs
  rcases startTransaction_ok (outcome_eq_next.1 h) with ⟨hw', _⟩ | ⟨-, -, rfl⟩
  · exact absurd hw' hw
  · refine ⟨1, le_rfl, htries, ?_, fun _ => ⟨rfl, rfl, rfl⟩⟩
    simp [started, Arbiter.command]

/-- One more send while the attempts are fewer than the tries. -/
theorem sentSoFar_step {i : Instr} {s u t : State} (hu : SentSoFar s u) (hi : i ≠ .arbStart) (h : exec i u = .next t) :
    SentSoFar s t := by
  obtain ⟨n, hpos, hmax, htxu, hwait⟩ := hu
  obtain ⟨bs, htx, harb⟩ := exec_writesArbiter h
  have hkept (ht : t.block.arb.astate = .wait) : t.block.arb.command = s.block.arb.command ∧
      t.block.arb.maxTries = s.block.arb.maxTries ∧ u.block.arb.attempts.toNat = n := by
    have hw := wait_of_arbiterWrite harb hi ht
    obtain ⟨hcmdu, htriesu, hn⟩ := hwait hw
    obtain ⟨hcmd, hcmdLen, -, -, -, htries, -⟩ := stays_waiting harb hw ht
    exact ⟨by rw [← hcmdu, Arbiter.command, Arbiter.command, hcmd, hcmdLen], htries.trans htriesu, hn⟩
  rcases sends_of_arbiterWrite harb hi with ⟨rfl, hsame⟩ | ⟨hw, rfl, hnext, hlt⟩
  · refine ⟨n, hpos, hmax, by rw [htx, htxu, List.append_nil], fun ht => ?_⟩
    obtain ⟨hcmd, htries, hn⟩ := hkept ht
    exact ⟨hcmd, htries, by rw [hsame ht, hn]⟩
  · obtain ⟨hcmdu, htriesu, hn⟩ := hwait hw
    have hroom : n < s.block.arb.maxTries.toNat := by
      rw [← htriesu, ← hn]
      exact hlt
    refine ⟨n + 1, by omega, hroom, ?_, fun ht => ?_⟩
    · rw [htx, htxu, hcmdu, List.replicate_succ', List.flatten_append, List.flatten_singleton, List.append_assoc]
    · obtain ⟨hcmd, htries, -⟩ := hkept ht
      exact ⟨hcmd, htries, by rw [hnext]; bv_omega⟩

theorem sentSoFar_runOps : ∀ {ops : List Instr} {s u t : State}, SentSoFar s u → Instr.arbStart ∉ ops →
    runOps ops u = .next t → SentSoFar s t
  | [], _, _, _, hu, _, h => by
    cases h
    exact hu
  | i :: ops, _, _, _, hu, hops, h => by
    obtain ⟨v, hv, hrest⟩ := runOps_cons_next h
    exact sentSoFar_runOps (sentSoFar_step hu (fun hi => hops (by simp [hi])) hv) (fun hi => hops (by simp [hi])) hrest

/-- Settles O47: the count of sends, kept by every operation but ARB.START. -/
theorem oneTransactionSendsAtMostMaxTriesCommands : Obligations.OneTransactionSendsAtMostMaxTriesCommands := by
  intro s t ops hs hw hops h
  obtain ⟨u, hu, hrest⟩ := runOps_cons_next h
  obtain ⟨n, hpos, hmax, htx, -⟩ := sentSoFar_runOps (sentSoFar_start hs hw hu) hops hrest
  exact ⟨n, hpos, hmax, htx⟩

end Sys2Proof.Machine
end

section
/-! SUPPORT. Who writes what (10_state.md, sections 2 to 5): of each element of the block, the operations that can change it. -/

namespace Sys2Proof.Machine

open Sys2Proof

/-! ## The elements a byte changes (R125, R133, R136, R137) -/

section Byte

variable {c : Config} {b : Byte} {d : Decoder} {r : DecStep} (h : ByteEffect c b d r)
include h

theorem frameValid_of_byteEffect (hne : r.dec.frameValid ≠ d.frameValid) :
    (r.dec.frameValid = false ∧ d.dstate = .hdrlen) ∨ (r.dec.frameValid = true ∧ d.dstate = .ck4) := by
  cases h with
  | seeds hd => exact .inl ⟨rfl, hd⟩
  | accepts hd => exact .inr ⟨rfl, hd⟩
  | _ => exact absurd rfl hne

theorem calcCrc_of_byteEffect (hne : r.dec.calcCrc ≠ d.calcCrc) : d.dstate = .ck4 := by
  cases h with
  | accepts hd | rejects hd => exact hd
  | _ => exact absurd rfl hne

theorem fsel_of_byteEffect : r.dec.fsel = d.fsel := by
  cases h <;> rfl

theorem badcrcCnt_of_byteEffect :
    r.dec.badcrcCnt = d.badcrcCnt ∨ (r.dec.badcrcCnt = d.badcrcCnt + 1 ∧ d.dstate = .ck4) := by
  cases h with
  | rejects hd => exact .inr ⟨rfl, hd⟩
  | _ => exact .inl rfl

theorem dropCnt_of_byteEffect : r.dec.dropCnt = d.dropCnt ∨ (r.dec.dropCnt = d.dropCnt + 1 ∧ r.dec.dstate = .sync1 ∧
    (d.dstate = .hdrlen ∨ d.dstate = .hdr ∨ d.dstate = .pay)) := by
  cases h with
  | drops hd => exact .inr ⟨rfl, rfl, hd⟩
  | _ => exact .inl rfl

end Byte

/-! ## The elements of the decoder -/

section Decoder

variable {i : Instr} {s : State} {d : Decoder} (h : DecoderWrite s i d) (hreset : i ≠ .ctlReset)
include h hreset

theorem progress_writtenBy (hne : d.dstate ≠ s.block.dec.dstate ∨ d.read ≠ s.block.dec.read ∨ d.decResult ≠ s.block.dec.decResult) :
    i = .ctlDecrst ∨ ∃ b, i = .decByte b := by
  cases h with
  | keeps | clearsCounts | selects => simp at hne
  | resets => exact absurd rfl hreset
  | restarts => exact .inl rfl
  | decodes => exact .inr ⟨_, rfl⟩

theorem frameValid_writtenBy (hne : d.frameValid ≠ s.block.dec.frameValid) :
    (d.frameValid = false ∧ (i = .ctlDecrst ∨ (s.block.dec.dstate = .hdrlen ∧ ∃ b, i = .decByte b))) ∨
    (d.frameValid = true ∧ s.block.dec.dstate = .ck4 ∧ ∃ b, i = .decByte b) := by
  cases h with
  | keeps | clearsCounts | selects => exact absurd rfl hne
  | resets => exact absurd rfl hreset
  | restarts => exact .inl ⟨rfl, .inl rfl⟩
  | decodes hr =>
    rcases frameValid_of_byteEffect (decStep_effect hr) hne with ⟨hv, hd⟩ | ⟨hv, hd⟩
    · exact .inl ⟨hv, .inr ⟨hd, _, rfl⟩⟩
    · exact .inr ⟨hv, hd, _, rfl⟩

theorem frame_writtenBy (hne : d.hdr ≠ s.block.dec.hdr ∨ d.pay ≠ s.block.dec.pay ∨ d.hdrLen ≠ s.block.dec.hdrLen ∨
    d.msgLen ≠ s.block.dec.msgLen ∨ d.rxCrc ≠ s.block.dec.rxCrc) : ∃ b, i = .decByte b := by
  cases h with
  | keeps | restarts | clearsCounts | selects => simp at hne
  | resets => exact absurd rfl hreset
  | decodes => exact ⟨_, rfl⟩

theorem calcCrc_writtenBy (hne : d.calcCrc ≠ s.block.dec.calcCrc) : s.block.dec.dstate = .ck4 ∧ ∃ b, i = .decByte b := by
  cases h with
  | keeps | restarts | clearsCounts | selects => exact absurd rfl hne
  | resets => exact absurd rfl hreset
  | decodes hr => exact ⟨calcCrc_of_byteEffect (decStep_effect hr) hne, _, rfl⟩

theorem fsel_writtenBy (hne : d.fsel ≠ s.block.dec.fsel) : ∃ buf idx, i = .fbufSel buf idx := by
  cases h with
  | keeps | restarts | clearsCounts => exact absurd rfl hne
  | resets => exact absurd rfl hreset
  | selects => exact ⟨_, _, rfl⟩
  | decodes hr => exact absurd (fsel_of_byteEffect (decStep_effect hr)) hne

theorem badcrcCnt_writtenBy (hclr : i ≠ .ctlClrcnt) : d.badcrcCnt = s.block.dec.badcrcCnt ∨
    (d.badcrcCnt = s.block.dec.badcrcCnt + 1 ∧ s.block.dec.dstate = .ck4 ∧ ∃ b, i = .decByte b) := by
  cases h with
  | keeps | restarts | selects => exact .inl rfl
  | resets => exact absurd rfl hreset
  | clearsCounts => exact absurd rfl hclr
  | decodes hr => exact (badcrcCnt_of_byteEffect (decStep_effect hr)).imp_right fun ⟨hcnt, hd⟩ => ⟨hcnt, hd, _, rfl⟩

theorem dropCnt_writtenBy (hclr : i ≠ .ctlClrcnt) : d.dropCnt = s.block.dec.dropCnt ∨
    (d.dropCnt = s.block.dec.dropCnt + 1 ∧ d.dstate = .sync1 ∧
      (s.block.dec.dstate = .hdrlen ∨ s.block.dec.dstate = .hdr ∨ s.block.dec.dstate = .pay) ∧ ∃ b, i = .decByte b) := by
  cases h with
  | keeps | restarts | selects => exact .inl rfl
  | resets => exact absurd rfl hreset
  | clearsCounts => exact absurd rfl hclr
  | decodes hr =>
    exact (dropCnt_of_byteEffect (decStep_effect hr)).imp_right fun ⟨hcnt, hsync, hd⟩ => ⟨hcnt, hsync, hd, _, rfl⟩

end Decoder

/-! ## The elements of the arbiter -/

section Arbiter

variable {i : Instr} {s : State} {a : Arbiter} {bs : List Byte} (h : ArbiterWrite s i a bs) (hreset : i ≠ .ctlReset)
include h hreset

theorem budget_writtenBy (hne : a.budget ≠ s.block.arb.budget) : ∃ v, i = .arbBudget v := by
  cases h with
  | setsBudget => exact ⟨_, rfl⟩
  | resets => exact absurd rfl hreset
  | _ => exact absurd rfl hne

theorem maxTries_writtenBy (hne : a.maxTries ≠ s.block.arb.maxTries) : ∃ n, i = .arbTries n := by
  cases h with
  | setsTries => exact ⟨_, rfl⟩
  | resets => exact absurd rfl hreset
  | _ => exact absurd rfl hne

theorem cmd_writtenBy (hne : a.cmd ≠ s.block.arb.cmd) : ∃ b, i = .arbCmd b := by
  cases h with
  | appendsCommand => exact ⟨_, rfl⟩
  | resets => exact absurd rfl hreset
  | _ => exact absurd rfl hne

theorem cmdLen_writtenBy (hne : a.cmdLen ≠ s.block.arb.cmdLen) : i = .arbClrcmd ∨ ∃ b, i = .arbCmd b := by
  cases h with
  | clearsCommand => exact .inl rfl
  | appendsCommand => exact .inr ⟨_, rfl⟩
  | resets => exact absurd rfl hreset
  | _ => exact absurd rfl hne

theorem pat_writtenBy (hne : a.pat ≠ s.block.arb.pat) : ∃ b, i = .arbPat b := by
  cases h with
  | appendsPattern => exact ⟨_, rfl⟩
  | resets => exact absurd rfl hreset
  | _ => exact absurd rfl hne

theorem patLen_writtenBy (hne : a.patLen ≠ s.block.arb.patLen) : i = .arbClrpat ∨ ∃ b, i = .arbPat b := by
  cases h with
  | clearsPattern => exact .inl rfl
  | appendsPattern => exact .inr ⟨_, rfl⟩
  | resets => exact absurd rfl hreset
  | _ => exact absurd rfl hne

theorem attempt_writtenBy (hne : a.attempts ≠ s.block.arb.attempts ∨ a.elapsed ≠ s.block.arb.elapsed) :
    i = .arbStart ∨ ∃ d, i = .arbTick d := by
  cases h with
  | starts => exact .inl rfl
  | ticks | resends | timesOut => exact .inr ⟨_, rfl⟩
  | resets => exact absurd rfl hreset
  | _ => exact absurd hne (not_or.2 ⟨fun hn => hn rfl, fun hn => hn rfl⟩)

theorem matchLen_writtenBy (hne : a.matchLen ≠ s.block.arb.matchLen) :
    i = .arbStart ∨ i = .arbClrpat ∨ (∃ b, i = .arbRx b) ∨ ∃ d, i = .arbTick d := by
  cases h with
  | starts => exact .inl rfl
  | clearsPattern => exact .inr (.inl rfl)
  | receives => exact .inr (.inr (.inl ⟨_, rfl⟩))
  | resends => exact .inr (.inr (.inr ⟨_, rfl⟩))
  | resets => exact absurd rfl hreset
  | _ => exact absurd rfl hne

/-- Outside WAIT only ARB.START moves the arbiter. -/
theorem astate_outside_wait (hw : s.block.arb.astate ≠ .wait) (hne : a.astate ≠ s.block.arb.astate) :
    i = .arbStart ∧ (a.astate = .wait ∨ a.astate = .success) := by
  cases h with
  | starts =>
    refine ⟨rfl, ?_⟩
    simp only [started, State.done, State.setArb]
    split
    · exact .inr rfl
    · exact .inl rfl
  | aborts hn | ioErrors hn | receives hn | ticks hn | resends hn | timesOut hn => exact absurd hn hw
  | resets => exact absurd rfl hreset
  | _ => exact absurd rfl hne

/-- From WAIT each of the four terminal states has its operation. -/
theorem astate_from_wait (hw : s.block.arb.astate = .wait) : a.astate = .wait ∨
    (a.astate = .success ∧ ∃ b, i = .arbRx b) ∨ (a.astate = .timeout ∧ ∃ d, i = .arbTick d) ∨
    (a.astate = .ioerr ∧ i = .arbIoerr) ∨ (a.astate = .aborted ∧ i = .arbAbort) := by
  cases h with
  | keeps | ticks | resends => exact .inl hw
  | receives =>
    simp only [received, State.done, State.setArb]
    split
    · exact .inr (.inl ⟨rfl, _, rfl⟩)
    · exact .inl rfl
  | timesOut => exact .inr (.inr (.inl ⟨rfl, _, rfl⟩))
  | ioErrors => exact .inr (.inr (.inr (.inl ⟨rfl, rfl⟩)))
  | aborts => exact .inr (.inr (.inr (.inr ⟨rfl, rfl⟩)))
  | resets => exact absurd rfl hreset
  | starts hn | clearsCommand hn | clearsPattern hn | setsBudget hn | setsTries hn | appendsCommand hn | appendsPattern hn =>
    exact absurd hw hn

end Arbiter

/-! ## The CRC register and the sticky bits -/

theorem crc_writtenBy {i : Instr} {s t : State} (h : exec i s = .next t) (hreset : i ≠ .ctlReset)
    (hne : t.block.crc ≠ s.block.crc) : (∃ v, i = .crcSeed v) ∨ ∃ b, i = .crcByte b := by
  cases exec_effect h with
  | writesCrc v hi => exact hi
  | resets => exact absurd rfl hreset
  | _ => exact absurd rfl hne

/-- Recording clears no bit. -/
theorem Sticky.bit_record_of_bit {f : Sticky} {e : Event} (k : Event) (hf : f.bit e = true) : (f.record k).bit e = true := by
  obtain ⟨hillop, hcmd, hpat, hbusy⟩ := Sticky.record_bits k f
  cases e with
  | illegalAccess => exact hillop.2 (.inl hf)
  | busyReject => exact hbusy.2 (.inl hf)
  | overflowCmd => exact hcmd.2 (.inl hf)
  | overflowPat => exact hpat.2 (.inl hf)
  | badChecksum | frameDrop => cases hf

/-- Recording one kind changes the bit of no other. -/
theorem Sticky.eq_of_bit_record_ne {f : Sticky} {k e : Event} (hne : (f.record k).bit e ≠ f.bit e) : k = e := by
  cases hf : f.bit e with
  | false => exact Sticky.eq_of_bit_record hf (by simpa [hf] using hne)
  | true => exact absurd ((Sticky.bit_record_of_bit k hf).trans hf.symm) hne

/-- A sticky bit changes by CTL.CLRERR, or by an operation that raises its error. -/
theorem sticky_writtenBy {i : Instr} {s t : State} {e : Event} (h : exec i s = .next t) (hreset : i ≠ .ctlReset)
    (hne : t.block.sticky.bit e ≠ s.block.sticky.bit e) : i = .ctlClrerr ∨ raisedBy s i = some e := by
  by_cases hclr : i = .ctlClrerr
  · exact .inl hclr
  · rw [exec_sticky h hclr hreset] at hne
    cases hk : raisedBy s i with rw [hk] at hne
    | none => exact absurd rfl hne
    | some k =>
      obtain rfl := Sticky.eq_of_bit_record_ne hne
      exact .inr rfl

/-- Settles O56: the parameters never change; the elements of each unit by the inversions above. -/
theorem eachElementIsWrittenOnlyByItsOperations : Obligations.EachElementIsWrittenOnlyByItsOperations := by
  refine ⟨fun _ _ _ h => exec_cfg h, fun i s t h hreset => ?_⟩
  have hdec := exec_decoderWrite h
  obtain ⟨_, -, harb⟩ := exec_writesArbiter h
  refine ⟨crc_writtenBy h hreset, progress_writtenBy hdec hreset, frameValid_writtenBy hdec hreset, frame_writtenBy hdec hreset,
    calcCrc_writtenBy hdec hreset, fsel_writtenBy hdec hreset, badcrcCnt_writtenBy hdec hreset, dropCnt_writtenBy hdec hreset,
    budget_writtenBy harb hreset, maxTries_writtenBy harb hreset, cmd_writtenBy harb hreset, cmdLen_writtenBy harb hreset,
    pat_writtenBy harb hreset, patLen_writtenBy harb hreset, attempt_writtenBy harb hreset, matchLen_writtenBy harb hreset,
    astate_outside_wait harb hreset, astate_from_wait harb hreset, fun hne => ?_, fun hne => ?_, fun hne => ?_, fun hne => ?_⟩
  · exact (sticky_writtenBy (e := .illegalAccess) h hreset hne).imp_right raisedBy_illegalAccess.1
  · refine (sticky_writtenBy (e := .overflowCmd) h hreset hne).imp_right fun hk => ?_
    obtain ⟨-, -, hb⟩ := raisedBy_overflowCmd.1 hk
    exact hb
  · refine (sticky_writtenBy (e := .overflowPat) h hreset hne).imp_right fun hk => ?_
    obtain ⟨-, -, hb⟩ := raisedBy_overflowPat.1 hk
    exact hb
  · exact (sticky_writtenBy (e := .busyReject) h hreset hne).imp_right raisedBy_busyReject.1

end Sys2Proof.Machine
end

section
/-! SUPPORT. The reply search (R172, R173): the match length is the longest initial part of the pattern that ends the reply. -/

namespace Sys2Proof.Machine

open Sys2Proof

/-! ## The longest initial part of a pattern that ends a text -/

/-- `k` is the length of the longest initial part of `p` that ends `r`. -/
structure LongestEnd (p r : List Byte) (k : Nat) : Prop where
  le : k ≤ p.length
  ends : p.take k <:+ r
  longest : ∀ j, j ≤ p.length → p.take j <:+ r → j ≤ k

theorem longestEnd_nil (p : List Byte) : LongestEnd p [] 0 where
  le := Nat.zero_le _
  ends := List.nil_suffix
  longest j hj h := by
    have hlen : (p.take j).length ≤ 0 := h.length_le
    rw [List.length_take] at hlen
    omega

/-- The whole pattern ends the text exactly when its longest end is the whole pattern. -/
theorem LongestEnd.eq_length_iff {p r : List Byte} {k : Nat} (h : LongestEnd p r k) : k = p.length ↔ p <:+ r := by
  constructor
  · rintro rfl
    simpa using h.ends
  · intro hp
    exact le_antisymm h.le (h.longest p.length le_rfl (by simpa using hp))

/-- What ends the text with one more byte is what ends the longest end with that byte: the text itself can be forgotten. -/
theorem LongestEnd.take_suffix_concat_iff {p r : List Byte} {k j : Nat} (h : LongestEnd p r k) (hj : j ≤ p.length) (b : Byte) :
    p.take j <:+ r ++ [b] ↔ p.take j <:+ p.take k ++ [b] := by
  constructor
  · intro hsuf
    cases j with
    | zero => exact List.nil_suffix
    | succ j =>
      have htake : p.take (j + 1) = p.take j ++ [p[j]] := List.take_succ_eq_append_getElem hj
      rw [htake] at hsuf ⊢
      obtain ⟨hb, hr⟩ : p[j] = b ∧ p.take j <:+ r := by
        obtain ⟨l, hl⟩ := hsuf
        rw [← List.append_assoc] at hl
        obtain ⟨hl', hb⟩ := List.append_inj' hl rfl
        exact ⟨List.singleton_injective hb, l, hl'⟩
      have hjk : j ≤ k := h.longest j (by omega) hr
      obtain ⟨l, hl⟩ := List.suffix_of_suffix_length_le hr h.ends (by simp only [List.length_take]; omega)
      exact ⟨l, by rw [← List.append_assoc, hl, hb]⟩
  · intro hsuf
    obtain ⟨l, hl⟩ := h.ends
    exact hsuf.trans ⟨l, by rw [← List.append_assoc, hl]⟩

/-- The match step (R172) finds the longest end of the text with one more byte. -/
theorem LongestEnd.concat {p r : List Byte} {k : Nat} (h : LongestEnd p r k) (b : Byte) :
    LongestEnd p (r ++ [b]) (matchNext p k b) where
  le := matchNext_le p k b
  ends := (h.take_suffix_concat_iff (matchNext_le p k b) b).2 (matchNext_isSuffix p k b)
  longest _ hj hsuf := le_matchNext hj ((h.take_suffix_concat_iff hj b).1 hsuf)

/-! ## The search of the arbiter (R173, R184) -/

/-- After the reply `r` the arbiter has found the pattern `p`, or waits with its longest end. -/
structure Searching (p r : List Byte) (a : Arbiter) : Prop where
  pattern : a.pattern = p
  found : p <:+: r → a.astate = .success ∧ a.matchLen.toNat = p.length
  waits : ¬ p <:+: r → a.astate = .wait ∧ LongestEnd p r a.matchLen.toNat

/-- A waiting arbiter that has matched nothing searches from the empty reply. -/
theorem searching_nil {a : Arbiter} (hw : a.astate = .wait) (hm : a.matchLen = 0) (hp : a.patLen ≠ 0) :
    Searching a.pattern [] a where
  pattern := rfl
  found h := by
    have hlen : a.pattern.length = 0 := by rw [List.infix_nil.1 h, List.length_nil]
    rw [Arbiter.pattern_length] at hlen
    exact absurd (BitVec.eq_of_toNat_eq hlen) hp
  waits _ := ⟨hw, by rw [hm]; exact longestEnd_nil _⟩

/-- The arbiter after a reply byte in WAIT. -/
theorem searching_received {p r : List Byte} {u : State} (b : Byte) (h : Searching p r u.block.arb) (hr : ¬ p <:+: r) :
    Searching p (r ++ [b]) (received b u).block.arb := by
  obtain ⟨hpat, -, hwaits⟩ := h
  obtain ⟨-, hlong⟩ := hwaits hr
  have hnext := hlong.concat b
  have hlen : u.block.arb.patLen.toNat = p.length := by rw [← hpat, Arbiter.pattern_length]
  have hmatch : (received b u).block.arb.matchLen.toNat = matchNext p u.block.arb.matchLen.toNat b := by
    rw [← hpat]
    exact toNat_ofNat_matchNext _ _ _
  have hstate : (received b u).block.arb.astate =
      if matchNext p u.block.arb.matchLen.toNat b = p.length then .success else .wait := by
    rw [← hpat, Arbiter.pattern_length]
    rfl
  have hinfix : p <:+: r ++ [b] ↔ matchNext p u.block.arb.matchLen.toNat b = p.length := by
    rw [List.infix_concat_iff, hnext.eq_length_iff, or_iff_left hr]
  refine ⟨hpat, fun hf => ?_, fun hf => ?_⟩
  · rw [hmatch, hstate, if_pos (hinfix.1 hf)]
    exact ⟨rfl, hinfix.1 hf⟩
  · rw [hmatch, hstate, if_neg fun he => hf (hinfix.2 he)]
    exact ⟨rfl, hnext⟩

/-- ARB.RX continues the search, and changes nothing once the pattern is found. -/
theorem exec_arbRx_searching {p r : List Byte} {u : State} (b : Byte) (h : Searching p r u.block.arb)
    (hp : p.length ≤ u.cfg.patCap) : ∃ t, exec (.arbRx b) u = .next t ∧ Searching p (r ++ [b]) t.block.arb ∧
      (¬ p <:+: r → t = received b u) := by
  by_cases hr : p <:+: r
  · obtain ⟨hsucc, hm⟩ := h.found hr
    have hw : u.block.arb.astate ≠ .wait := by rw [hsucc]; decide
    have hr' : p <:+: r ++ [b] := List.infix_concat_iff.2 (.inr hr)
    exact ⟨u.done, exec_ignored hw (.inr (.inr (.inl ⟨b, rfl⟩))),
      ⟨h.pattern, fun _ => ⟨hsucc, hm⟩, fun hn => absurd hr' hn⟩, fun hn => absurd hr hn⟩
  · obtain ⟨hw, hlong⟩ := h.waits hr
    have hlen : u.block.arb.patLen.toNat = p.length := by rw [← h.pattern, Arbiter.pattern_length]
    have hlt : u.block.arb.matchLen.toNat < p.length :=
      lt_of_le_of_ne hlong.le fun he => hr (hlong.eq_length_iff.1 he).isInfix
    exact ⟨received b u, exec_arbRx_wait hw b (by rw [hlen]; exact hp) (by rw [hlen]; exact hlt),
      searching_received b h hr, fun _ => rfl⟩

/-- A whole reply is searched byte by byte. -/
theorem receive_searching {s : State} (hw : s.block.arb.astate = .wait) (hp : s.block.arb.patLen.toNat ≤ s.cfg.patCap)
    (hm : s.block.arb.matchLen = 0) (hne : s.block.arb.patLen ≠ 0) (r : List Byte) :
    ∃ t, receive r s = .next t ∧ Searching s.block.arb.pattern r t.block.arb ∧ t.cfg = s.cfg := by
  induction r using List.reverseRecOn with
  | nil => exact ⟨s, rfl, searching_nil hw hm hne, rfl⟩
  | append_singleton r b ih =>
    obtain ⟨u, hu, hsearch, hcfg⟩ := ih
    obtain ⟨t, ht, hsearch', -⟩ := exec_arbRx_searching b hsearch (by rw [hcfg, Arbiter.pattern_length]; exact hp)
    refine ⟨t, ?_, hsearch', (exec_cfg ht).trans hcfg⟩
    rw [receive, List.map_append, runOps_append _ _ hu, List.map_singleton, runOps, ht]
    rfl

/-- Settles O45: the search over the whole reply, read off at its end. -/
theorem streamingMatchIsSubstringSearch : Obligations.StreamingMatchIsSubstringSearch := by
  intro s r hw hp hm hne
  obtain ⟨t, ht, ⟨-, hfound, hwaits⟩, -⟩ := receive_searching hw hp hm hne r
  rw [Arbiter.pattern_length] at hfound
  refine ⟨t, ht, fun hr => ?_, fun hr => ?_⟩
  · obtain ⟨hsucc, hlen⟩ := hfound hr
    exact ⟨hsucc, BitVec.eq_of_toNat_eq hlen⟩
  · obtain ⟨hwait, hlong⟩ := hwaits hr
    rw [← Arbiter.pattern_length]
    exact ⟨hwait, hlong.le, hlong.ends, hlong.longest⟩

end Sys2Proof.Machine
end

section
/-! SUPPORT. Time (R171, R185, R193, R194): the one attempt of a transaction with one try, and that ticks end every transaction. -/

namespace Sys2Proof.Machine

open Sys2Proof

/-- The saturating sum passes the time limit exactly when the sum does: the limit is below the saturation (R171). -/
theorem timeLimit_lt_addElapsed {c : Config} (hc : c.Legal) (v : Word) (e : BitVec 64) (d : Word) :
    timeLimit c v < (addElapsed e d).toNat ↔ timeLimit c v < e.toNat + d.toNat := by
  have hlim := timeLimit_le hc v
  rw [toNat_addElapsed]
  omega

/-- Within the limit the sum is exact. -/
theorem toNat_addElapsed_of_le {c : Config} (hc : c.Legal) {v : Word} {e : BitVec 64} {d : Word}
    (h : (addElapsed e d).toNat ≤ timeLimit c v) : (addElapsed e d).toNat = e.toNat + d.toNat := by
  have hlim := timeLimit_le hc v
  rw [toNat_addElapsed] at h ⊢
  omega

/-! ## One attempt (R193) -/

/-- The attempt is within its time: it has waited `total` microseconds and taken the reply `r`, and no try is left after it. -/
structure InTime (s : State) (r : List Byte) (total : Nat) (a : Arbiter) : Prop where
  searching : Searching s.block.arb.pattern r a
  elapsed : a.elapsed.toNat = total
  budget : a.budget = s.block.arb.budget
  lastTry : ¬ a.attempts < a.maxTries

/-- After ARB.START in `s`, ticks of `total` microseconds and the reply `r`: in time, or in TIMEOUT. -/
structure Attempt (s : State) (r : List Byte) (total : Nat) (u : State) : Prop where
  cfg : u.cfg = s.cfg
  inTime : total ≤ timeLimit s.cfg s.block.arb.budget → InTime s r total u.block.arb
  late : timeLimit s.cfg s.block.arb.budget < total → u.block.arb.astate = .timeout

theorem attempt_start {s : State} (hs : s.Inv) (hw : s.block.arb.astate ≠ .wait) (htries : s.block.arb.maxTries = 1)
    (hne : s.block.arb.patLen ≠ 0) : ∃ u, exec .arbStart s = .next u ∧ Attempt s [] 0 u := by
  obtain ⟨-, -, hcmd, -⟩ := hs
  have hwait : (started s).block.arb.astate = .wait := if_neg hne
  refine ⟨started s, exec_arbStart_free hw hcmd, rfl, fun _ => ⟨searching_nil hwait rfl hne, rfl, rfl, ?_⟩, fun h => ?_⟩
  · change ¬ (1 : Byte) < s.block.arb.maxTries
    rw [htries]
    decide
  · exact absurd h (Nat.not_lt_zero _)

section Attempt

variable {s u : State} {r : List Byte} {total : Nat} (h : Attempt s r total u) (hs : s.Inv)
  (hr : ¬ s.block.arb.pattern <:+: r)
include h hs hr

/-- A reply byte adds to the reply. -/
theorem attempt_arbRx (b : Byte) : ∃ t, exec (.arbRx b) u = .next t ∧ Attempt s (r ++ [b]) total t := by
  obtain ⟨hcfg, hin, hlate⟩ := h
  obtain ⟨-, -, -, hcap, -⟩ := hs
  by_cases hl : total ≤ timeLimit s.cfg s.block.arb.budget
  · obtain ⟨hsearch, helapsed, hbudget, hlast⟩ := hin hl
    obtain ⟨t, ht, hsearch', heq⟩ := exec_arbRx_searching b hsearch (by rw [hcfg, Arbiter.pattern_length]; exact hcap)
    obtain rfl := heq hr
    exact ⟨_, ht, hcfg, fun _ => ⟨hsearch', helapsed, hbudget, hlast⟩, fun hlt => absurd hlt hl.not_gt⟩
  · have htime := hlate (not_le.1 hl)
    have hw : u.block.arb.astate ≠ .wait := by rw [htime]; decide
    exact ⟨u.done, exec_ignored hw (.inr (.inr (.inl ⟨b, rfl⟩))), hcfg, fun hle => absurd hle hl, fun _ => htime⟩

/-- A tick adds to the time. -/
theorem attempt_arbTick (d : Word) : ∃ t, exec (.arbTick d) u = .next t ∧ Attempt s r (total + d.toNat) t := by
  obtain ⟨hcfg, hin, hlate⟩ := h
  obtain ⟨hc, -⟩ := hs
  by_cases hl : total ≤ timeLimit s.cfg s.block.arb.budget
  · obtain ⟨⟨hpat, hfound, hwaits⟩, helapsed, hbudget, hlast⟩ := hin hl
    obtain ⟨hw, hlong⟩ := hwaits hr
    have hlimit : timeLimit u.cfg u.block.arb.budget = timeLimit s.cfg s.block.arb.budget := by rw [hcfg, hbudget]
    by_cases hsum : (addElapsed u.block.arb.elapsed d).toNat ≤ timeLimit s.cfg s.block.arb.budget
    · have hexact := toNat_addElapsed_of_le hc hsum
      rw [helapsed] at hexact
      refine ⟨_, exec_arbTick_within hw (hsum.trans_eq hlimit.symm), hcfg, fun _ => ?_, fun hlt => ?_⟩
      · exact ⟨⟨hpat, fun hf => absurd hf hr, fun _ => ⟨hw, hlong⟩⟩, hexact, hbudget, hlast⟩
      · omega
    · rw [not_le] at hsum
      have hpast := (timeLimit_lt_addElapsed hc _ _ _).1 hsum
      rw [helapsed] at hpast
      exact ⟨_, exec_arbTick_timeout hw (hlimit.trans_lt hsum) hlast, hcfg, fun hle => absurd hle hpast.not_ge, fun _ => rfl⟩
  · have htime := hlate (not_le.1 hl)
    have hw : u.block.arb.astate ≠ .wait := by rw [htime]; decide
    exact ⟨u.done, exec_ignored hw (.inr (.inr (.inr ⟨d, rfl⟩))), hcfg, fun hle => absurd hle (by omega), fun _ => htime⟩

end Attempt

theorem totalTicks_snoc (ops : List Instr) (i : Instr) : totalTicks (ops ++ [i]) = totalTicks ops + tickOperand i := by
  simp [totalTicks]

/-- One more operation after a run that answers a state. -/
theorem runOps_snoc {ops : List Instr} {i : Instr} {s u t : State} (hu : runOps ops s = .next u) (ht : exec i u = .next t) :
    runOps (ops ++ [i]) s = .next t := by
  rw [runOps_append _ _ hu, runOps, ht]
  rfl

/-- Ticks and reply bytes that do not complete the pattern add up. -/
theorem attempt_runOps {s : State} (hs : s.Inv) (hw : s.block.arb.astate ≠ .wait) (htries : s.block.arb.maxTries = 1)
    (hne : s.block.arb.patLen ≠ 0) (ops : List Instr) : (∀ i ∈ ops, (∃ d, i = .arbTick d) ∨ ∃ x, i = .arbRx x) →
    ¬ s.block.arb.pattern <:+: ops.filterMap rxOperand →
    ∃ u, runOps (.arbStart :: ops) s = .next u ∧ Attempt s (ops.filterMap rxOperand) (totalTicks ops) u := by
  induction ops using List.reverseRecOn with
  | nil =>
    intro _ _
    obtain ⟨u, hu, hatt⟩ := attempt_start hs hw htries hne
    exact ⟨u, by rw [runOps, hu]; rfl, hatt⟩
  | append_singleton ops i ih =>
    intro hops hr
    rw [List.filterMap_append] at hr
    have hr' : ¬ s.block.arb.pattern <:+: ops.filterMap rxOperand := fun hf => hr (hf.trans (List.prefix_append _ _).isInfix)
    obtain ⟨u, hu, hatt⟩ := ih (fun j hj => hops j (by simp [hj])) hr'
    rw [List.filterMap_append, totalTicks_snoc]
    rcases hops i (by simp) with ⟨d, rfl⟩ | ⟨x, rfl⟩
    · obtain ⟨t, ht, hatt'⟩ := attempt_arbTick hatt hs hr' d
      refine ⟨t, runOps_snoc hu ht, ?_⟩
      change Attempt s (ops.filterMap rxOperand ++ []) (totalTicks ops + d.toNat) t
      rwa [List.append_nil]
    · obtain ⟨t, ht, hatt'⟩ := attempt_arbRx hatt hs hr' x
      exact ⟨t, runOps_snoc hu ht, hatt'⟩

/-- Settles O46: in time the search goes on and the last byte completes it; late the attempt is in TIMEOUT already. -/
theorem replyInTimeSucceedsAndLateReplyFails : Obligations.ReplyInTimeSucceedsAndLateReplyFails := by
  intro s ops b hs hw htries hne hops hr hdone
  obtain ⟨u, hu, hatt⟩ := attempt_runOps hs hw htries hne ops hops hr
  obtain ⟨t, ht, hatt'⟩ := attempt_arbRx hatt hs hr b
  refine ⟨u, t, hu, ht, fun hle => ?_, fun hlt => ⟨hatt.late hlt, hatt'.late hlt⟩⟩
  obtain ⟨hwait, -⟩ := (hatt.inTime hle).searching.waits hr
  obtain ⟨hsucc, -⟩ := (hatt'.inTime hle).searching.found hdone
  exact ⟨hwait, hsucc⟩

/-! ## Ticks end every transaction (R194) -/

/-- How many non-zero ticks the transaction can still wait for: a full limit for each attempt left, and the rest of this one. -/
def ticksLeft (s : State) : Nat :=
  (s.block.arb.maxTries.toNat - s.block.arb.attempts.toNat) * (timeLimit s.cfg s.block.arb.budget + 1) +
    max 1 (timeLimit s.cfg s.block.arb.budget + 1 - s.block.arb.elapsed.toNat)

/-- A non-zero tick in WAIT ends the transaction in TIMEOUT or leaves fewer ticks to wait for. -/
theorem arbTick_ends_or_lowers {s t : State} {d : Word} (hs : s.Inv) (hw : s.block.arb.astate = .wait) (hd : d ≠ 0)
    (h : exec (.arbTick d) s = .next t) :
    t.block.arb.astate = .timeout ∨ (t.block.arb.astate = .wait ∧ ticksLeft t < ticksLeft s) := by
  obtain ⟨hc, -⟩ := hs
  have hpos : 0 < d.toNat := Nat.pos_of_ne_zero fun h0 => hd (BitVec.eq_of_toNat_eq h0)
  rcases tick_ok (outcome_eq_next.1 h) with ⟨hn, _⟩ | ⟨-, hle, rfl⟩ | ⟨-, -, hlt, -, rfl⟩ | ⟨-, -, -, rfl⟩
  · exact absurd hw hn
  · have hexact := toNat_addElapsed_of_le hc hle
    refine .inr ⟨hw, ?_⟩
    simp only [ticksLeft, State.done, State.setArb, Arbiter.ticked]
    omega
  · refine .inr ⟨hw, ?_⟩
    have hnext : (s.block.arb.attempts + 1).toNat = s.block.arb.attempts.toNat + 1 := by bv_omega
    have hleft : s.block.arb.maxTries.toNat - s.block.arb.attempts.toNat =
        s.block.arb.maxTries.toNat - (s.block.arb.attempts.toNat + 1) + 1 := by bv_omega
    change (s.block.arb.maxTries.toNat - (s.block.arb.attempts + 1).toNat) * (timeLimit s.cfg s.block.arb.budget + 1) +
      max 1 (timeLimit s.cfg s.block.arb.budget + 1 - 0) < _
    rw [ticksLeft, hnext, hleft, Nat.add_mul, Nat.one_mul]
    omega
  · exact .inl rfl

theorem arbTicks_after_timeout : ∀ (ds : List Word) {s : State}, s.block.arb.astate = .timeout →
    ∃ t, runOps (ds.map Instr.arbTick) s = .next t ∧ t.block.arb.astate = .timeout
  | [], s, h => ⟨s, rfl, h⟩
  | d :: ds, s, h => by
    have hw : s.block.arb.astate ≠ .wait := by rw [h]; decide
    rw [List.map_cons, runOps, exec_ignored hw (.inr (.inr (.inr ⟨d, rfl⟩)))]
    exact arbTicks_after_timeout ds h

theorem arbTicks_end : ∀ (ds : List Word) {s : State}, s.Inv → s.block.arb.astate = .wait → (∀ d ∈ ds, d ≠ 0) →
    ticksLeft s ≤ ds.length → ∃ t, runOps (ds.map Instr.arbTick) s = .next t ∧ t.block.arb.astate = .timeout
  | [], s, _, _, _, hlen => by
    rw [ticksLeft, List.length_nil] at hlen
    omega
  | d :: ds, s, hs, hw, hds, hlen => by
    obtain ⟨t, ht, hinv⟩ := exec_inv hs (.arbTick d)
    rw [List.map_cons, runOps, ht]
    rcases arbTick_ends_or_lowers hs hw (hds d (by simp)) ht with htime | ⟨hwait, hlow⟩
    · exact arbTicks_after_timeout ds htime
    · rw [List.length_cons] at hlen
      exact arbTicks_end ds hinv hwait (fun e he => hds e (by simp [he])) (by omega)

/-- Settles O48: the ticks left to wait for are within the bound. -/
theorem enoughTicksEndEveryTransaction : Obligations.EnoughTicksEndEveryTransaction := by
  intro s ds hs hw hds hlen
  refine arbTicks_end ds hs hw hds (le_trans ?_ hlen)
  rw [ticksLeft, Nat.add_mul, Nat.one_mul]
  change _ ≤ _ * (timeLimit s.cfg s.block.arb.budget + 1) + (timeLimit s.cfg s.block.arb.budget + 1)
  omega

end Sys2Proof.Machine
end

section
/-! SUPPORT. Single-bit errors (R153): the decoder state inside a frame depends on the lengths of header and payload only, so a frame
with one changed byte outside its structure is taken through the same states and fails the check. -/

namespace Sys2Proof.Machine

open Sys2Proof

/-! ## The decoder state inside a frame -/

/-- The state after `k` bytes of the preamble. -/
def syncState : Nat → DState
  | 0 => .sync1
  | 1 => .sync2
  | 2 => .sync3
  | _ => .hdrlen

/-- The state after `k` bytes of the trailer. -/
def trailerState : Nat → DState
  | 0 => .ck1
  | 1 => .ck2
  | 2 => .ck3
  | _ => .ck4

/-- The state after `k` bytes, but not all, of a frame with `n` header bytes and `m` payload bytes. -/
def frameState (n m k : Nat) : DState :=
  if k < 4 then syncState k else if k < n then .hdr else if k < n + m then .pay else trailerState (k - (n + m))

/-- The decoder takes the bytes and ends in the state. -/
def TakesTo (c : Config) (d : Decoder) (bs : List Byte) (q : DState) : Prop := ∃ e, Takes c d bs e ∧ e.dstate = q

theorem Takes.to_append {c : Config} {d e : Decoder} {as bs : List Byte} {q : DState} (h : Takes c d as e)
    (h' : TakesTo c e bs q) : TakesTo c d (as ++ bs) q := by
  obtain ⟨f, hf, hq⟩ := h'
  exact ⟨f, h.append hf, hq⟩

theorem takesTo_preamble (c : Config) {d : Decoder} (hd : d.dstate = .sync1) :
    ∀ k, k < 4 → TakesTo c d ([0xAA, 0x44, 0xB5].take k) (syncState k)
  | 0, _ => ⟨d, .nil d, hd⟩
  | 1, _ => ⟨_, .single (decStep_sync1 c 0xAA hd), rfl⟩
  | 2, _ => ⟨_, .cons (decStep_sync1 c 0xAA hd) (.single (decStep_sync2 c 0x44 rfl)), rfl⟩
  | 3, _ => ⟨_, .cons (decStep_sync1 c 0xAA hd) (.cons (decStep_sync2 c 0x44 rfl) (.single (decStep_sync3 c 0xB5 rfl))), rfl⟩

/-- Fewer bytes than the header still needs leave HDR (R127). -/
theorem takesTo_headerPart {c : Config} (hc : c.hdrCap ≤ 255) : ∀ (rest : List Byte) {d : Decoder}, d.dstate = .hdr →
    d.read.toNat + rest.length < d.hdrLen.toNat → d.hdrLen.toNat ≤ c.hdrCap → TakesTo c d rest .hdr
  | [], d, hd, _, _ => ⟨d, .nil d, hd⟩
  | b :: rest, d, hd, hlen, hcap => by
    rw [List.length_cons] at hlen
    have hstep := decStep_hdr_store b hc hd (by omega)
    rw [if_neg (by omega)] at hstep
    obtain ⟨e, he, hq⟩ := takesTo_headerPart hc rest
      (d := { d with hdr := Memory.write d.hdr d.read.toNat b, read := d.read + 1, decResult := 0 }) hd
      (by simp only [toNat_succ (r := d.read) (by omega)]; omega) hcap
    exact ⟨e, .cons hstep he, hq⟩

/-- Fewer bytes than the payload still needs leave PAY (R129). -/
theorem takesTo_payloadPart {c : Config} (hc : c.payCap ≤ 65535) : ∀ (rest : List Byte) {d : Decoder}, d.dstate = .pay →
    d.hdrLen.toNat ≤ d.read.toNat → d.read.toNat + rest.length < d.hdrLen.toNat + d.msgLen.toNat → d.msgLen.toNat ≤ c.payCap →
    TakesTo c d rest .pay
  | [], d, hd, _, _, _ => ⟨d, .nil d, hd⟩
  | b :: rest, d, hd, hle, hlen, hcap => by
    rw [List.length_cons] at hlen
    have hstep := decStep_pay_store b hc hd hle (by omega)
    rw [if_neg (by omega)] at hstep
    have hread := toNat_succ (r := d.read) (by omega)
    obtain ⟨e, he, hq⟩ := takesTo_payloadPart hc rest
      (d := { d with
        pay := Memory.write d.pay (d.read.toNat - d.hdrLen.toNat) b, read := d.read + 1, dstate := .pay, decResult := 0 }) rfl
      (by simp only [hread]; omega) (by simp only [hread]; omega) hcap
    exact ⟨e, .cons hstep he, hq⟩

theorem takesTo_trailer (c : Config) {d : Decoder} (b0 b1 b2 : Byte) (hd : d.dstate = .ck1) :
    ∀ k, k < 4 → TakesTo c d ([b0, b1, b2].take k) (trailerState k)
  | 0, _ => ⟨d, .nil d, hd⟩
  | 1, _ => ⟨_, .single (decStep_ck1 c b0 hd), rfl⟩
  | 2, _ => ⟨_, .cons (decStep_ck1 c b0 hd) (.single (decStep_ck2 c b1 rfl)), rfl⟩
  | 3, _ => ⟨_, .cons (decStep_ck1 c b0 hd) (.cons (decStep_ck2 c b1 rfl) (.single (decStep_ck3 c b2 rfl))), rfl⟩

section Frame

variable {c : Config} {h p : List Byte} {d : Decoder} (hcfg : c.Legal) (hbody : FrameBody c h p) (hd : d.dstate = .sync1)
include hcfg hbody hd

/-- A part of the header. -/
theorem takesTo_frameHeader (k : Nat) (hk : k < h.length) : TakesTo c d (h.take k) (frameState h.length p.length k) := by
  obtain ⟨n, rest, hh, hn, -⟩ := FrameBody.header_eq hcfg hbody
  obtain ⟨hmin, hcap, -⟩ := hbody
  obtain ⟨⟨-, h255⟩, -⟩ := hcfg
  have hlen : h.length = rest.length + 4 := by rw [hh]; rfl
  by_cases hsync : k < 4
  · have htake : h.take k = [0xAA, 0x44, 0xB5].take k := by
      have hsplit : h = [0xAA, 0x44, 0xB5] ++ n :: rest := hh
      rw [hsplit]
      exact List.take_append_of_le_length (Nat.le_of_lt_succ hsync)
    rw [frameState, if_pos hsync, htake]
    exact takesTo_preamble c hd k hsync
  · obtain ⟨j, rfl⟩ := Nat.exists_eq_add_of_le (not_lt.1 hsync)
    have htake : h.take (4 + j) = [0xAA, 0x44, 0xB5, n] ++ rest.take j := by
      have hsplit : h = [0xAA, 0x44, 0xB5, n] ++ rest := hh
      rw [hsplit]
      exact List.take_length_add_append (l₁ := [0xAA, 0x44, 0xB5, n]) j
    rw [frameState, if_neg hsync, if_pos hk, htake]
    refine (takes_preamble hd (hn ▸ hmin)).to_append (takesTo_headerPart h255 _ rfl ?_ (hn ▸ hcap))
    have hread : (4 : Word).toNat = 4 := rfl
    simp only [hread, hn, List.length_take]
    omega

/-- The whole header and a part of the payload. -/
theorem takesTo_framePayload (hm : Memory.wf c.hdrCap d.hdr = true) (j : Nat) (hj : j < p.length) :
    TakesTo c d (h ++ p.take j) (frameState h.length p.length (h.length + j)) := by
  have hheader := takes_frameHeader hcfg hbody hd
  have hmsg := framed_msgLen (d := d) hcfg hbody
  have hread : ((d.headed h).read).toNat = (d.headed h).hdrLen.toNat := BitVec.toNat_setWidth_of_le (by decide)
  have h6 := six_le_hdrMinLen hcfg
  rw [headerDone_headed hbody hm] at hheader
  obtain ⟨hmin, -, -, -, hcap, -⟩ := hbody
  obtain ⟨-, ⟨-, h65535⟩, -⟩ := hcfg
  have hpay : BitVec.ofNat 16 p.length ≠ 0 := fun h0 => by
    have hzero : p.length = 0 := hmsg.symm.trans (congrArg BitVec.toNat h0)
    omega
  rw [if_neg hpay] at hheader
  rw [frameState, if_neg (by omega), if_neg (by omega), if_pos (by omega)]
  refine hheader.to_append (takesTo_payloadPart h65535 _ rfl hread.ge ?_ (hmsg.trans_le hcap))
  have hmsg' : (BitVec.ofNat 16 p.length).toNat = p.length := hmsg
  simp only [hread, hmsg', List.length_take]
  omega

/-- After a part of a frame without its last byte the state is that of the position (R123 to R132). -/
theorem takesTo_frame (hm : Memory.wf c.hdrCap d.hdr = true) (b0 b1 b2 : Byte) (k : Nat) (hk : k < h.length + p.length + 4) :
    TakesTo c d ((h ++ p ++ [b0, b1, b2]).take k) (frameState h.length p.length k) := by
  by_cases hheader : k < h.length
  · rw [List.append_assoc, List.take_append_of_le_length hheader.le]
    exact takesTo_frameHeader hcfg hbody hd k hheader
  · obtain ⟨j, rfl⟩ := Nat.exists_eq_add_of_le (not_lt.1 hheader)
    rw [List.append_assoc, List.take_length_add_append]
    by_cases hpayload : j < p.length
    · rw [List.take_append_of_le_length hpayload.le]
      exact takesTo_framePayload hcfg hbody hd hm j hpayload
    · obtain ⟨l, rfl⟩ := Nat.exists_eq_add_of_le (not_lt.1 hpayload)
      have h6 := six_le_hdrMinLen hcfg
      have htaken := takes_frameBody hcfg hbody hd hm
      obtain ⟨hmin, -⟩ := hbody
      rw [List.take_length_add_append, ← List.append_assoc, frameState, if_neg (by omega), if_neg (by omega),
        if_neg (by omega), show h.length + (p.length + l) - (h.length + p.length) = l by omega]
      exact htaken.to_append (takesTo_trailer c b0 b1 b2 rfl l (by omega))

end Frame

/-- The same on the machine. -/
theorem feed_frame_dstate {s : State} {h p : List Byte} (hs : s.Inv) (hd : s.block.dec.dstate = .sync1)
    (hbody : FrameBody s.cfg h p) (b0 b1 b2 b3 : Byte) {k : Nat} (hpos : 0 < k) (hk : k < h.length + p.length + 4) :
    ∃ u, feed ((h ++ p ++ [b0, b1, b2, b3]).take k) s = .next u ∧ u.block.dec.dstate = frameState h.length p.length k := by
  obtain ⟨hcfg, ⟨-, -, hhdr, -⟩, -⟩ := hs
  obtain ⟨e, htakes, he⟩ := takesTo_frame hcfg hbody hd hhdr b0 b1 b2 k hk
  have hlen : k ≤ (h ++ p ++ [b0, b1, b2]).length := by
    simp only [List.length_append, List.length_cons, List.length_nil]
    omega
  have hne : (h ++ p ++ [b0, b1, b2]).take k ≠ [] := by
    rw [← List.length_pos_iff, List.length_take]
    omega
  obtain ⟨hfeed, -⟩ := htakes.feed_eq s rfl rfl hne
  rw [frame_init_append_last, List.take_append_of_le_length hlen]
  exact ⟨_, hfeed, he⟩

/-! ## A frame with one changed byte -/

/-- A changed byte changes the CRC (R107). -/
theorem crc32Block_set_ne (seed : Word) {l : List Byte} {i : Nat} {x : Byte} (hi : i < l.length) (hx : x ≠ l[i]) :
    crc32Block seed (l.set i x) ≠ crc32Block seed l := by
  have hl : l = l.take i ++ l[i] :: l.drop (i + 1) := by rw [List.cons_getElem_drop_succ, List.take_append_drop]
  rw [List.set_eq_take_append_cons_drop, if_pos hi]
  conv_rhs => rw [hl]
  exact oneChangedByteChangesTheCrc seed _ _ x l[i] hx

theorem getD_set_ne {l : List Byte} {i j : Nat} (x : Byte) (hij : i ≠ j) : (l.set i x).getD j 0 = l.getD j 0 := by
  rw [List.getD_eq_getElem?_getD, List.getD_eq_getElem?_getD, List.getElem?_set_ne hij]

theorem eq_getElem_of_set_eq {l : List Byte} {i : Nat} {x : Byte} (hi : i < l.length) (h : l.set i x = l) : x = l[i] := by
  have hset : (l.set i x)[i]'(by rwa [List.length_set]) = x := List.getElem_set_self _
  simp only [h] at hset
  exact hset.symm

/-- A header byte outside the structure is not part of the length conditions. -/
theorem FrameBody.set_header {c : Config} {h p : List Byte} {pos : Nat} (x : Byte) (hbody : FrameBody c h p) (h4 : 4 ≤ pos)
    (ho : pos ≠ c.msglenOffset) (ho' : pos ≠ c.msglenOffset + 1) : FrameBody c (h.set pos x) p := by
  obtain ⟨hmin, hcap, hpre, hlen, hpay, hmsg⟩ := hbody
  rw [FrameBody, List.length_set, List.take_set_of_le (by omega), getD_set_ne x (by omega), listLe16, getD_set_ne x ho,
    getD_set_ne x ho']
  exact ⟨hmin, hcap, hpre, hlen, hpay, hmsg⟩

theorem FrameBody.set_payload {c : Config} {h p : List Byte} (j : Nat) (x : Byte) (hbody : FrameBody c h p) :
    FrameBody c h (p.set j x) := by
  rw [FrameBody, List.length_set]
  exact hbody

/-- The bytes are a frame body with the lengths `n` and `m` and a trailer that is not its checksum. -/
def SpoiledFrame (c : Config) (n m : Nat) (bs : List Byte) : Prop :=
  ∃ (h p : List Byte) (b0 b1 b2 b3 : Byte), bs = h ++ p ++ [b0, b1, b2, b3] ∧ FrameBody c h p ∧ h.length = n ∧ p.length = m ∧
    b3 ++ b2 ++ b1 ++ b0 ≠ crc32Frame h p

/-- A body with another checksum spoils a frame. -/
theorem spoiledFrame_of_body {c : Config} {h p h' p' : List Byte} (hbody : FrameBody c h' p') (hh : h'.length = h.length)
    (hp : p'.length = p.length) (hcrc : crc32Frame h' p' ≠ crc32Frame h p) :
    SpoiledFrame c h.length p.length (h' ++ p' ++ trailerOf (crc32Frame h p)) :=
  ⟨h', p', _, _, _, _, rfl, hbody, hh, hp, fun heq => hcrc ((append_trailer _).symm.trans heq).symm⟩

/-- Another trailer spoils a frame. -/
theorem spoiledFrame_of_trailer {c : Config} {h p tr : List Byte} (hbody : FrameBody c h p) (hlen : tr.length = 4)
    (hne : tr ≠ trailerOf (crc32Frame h p)) : SpoiledFrame c h.length p.length (h ++ p ++ tr) := by
  obtain ⟨b0, b1, b2, b3, rfl⟩ := List.length_eq_four.1 hlen
  refine ⟨h, p, b0, b1, b2, b3, rfl, hbody, rfl, rfl, fun heq => hne ?_⟩
  rw [← heq, trailerOf_append]

/-- One changed byte outside the structure spoils a well-formed frame (R153). -/
theorem spoiledFrame_set {c : Config} {h p : List Byte} {pos : Nat} {x : Byte} (hbody : FrameBody c h p) (h4 : 4 ≤ pos)
    (ho : pos ≠ c.msglenOffset) (ho' : pos ≠ c.msglenOffset + 1) (hpos : pos < (frameBytes h p).length)
    (hx : x ≠ (frameBytes h p)[pos]) : SpoiledFrame c h.length p.length ((frameBytes h p).set pos x) := by
  by_cases hin : pos < (h ++ p).length
  · have hx' : x ≠ (h ++ p)[pos] := by rwa [← List.getElem_append_left (bs := trailerOf (crc32Frame h p)) hin]
    have hcrc := crc32Block_set_ne 0 hin hx'
    rw [frameBytes, List.set_append_left _ _ hin]
    by_cases hheader : pos < h.length
    · rw [List.set_append_left _ _ hheader] at hcrc ⊢
      rw [← crc32Frame_eq_block, ← crc32Frame_eq_block] at hcrc
      exact spoiledFrame_of_body (hbody.set_header x h4 ho ho') (List.length_set ..) rfl hcrc
    · rw [List.set_append_right _ _ (not_lt.1 hheader)] at hcrc ⊢
      rw [← crc32Frame_eq_block, ← crc32Frame_eq_block] at hcrc
      exact spoiledFrame_of_body (hbody.set_payload _ x) rfl (List.length_set ..) hcrc
  · rw [frameBytes, List.set_append_right _ _ (not_lt.1 hin)]
    have htrailer : pos - (h ++ p).length < (trailerOf (crc32Frame h p)).length := by
      rw [frameBytes, List.length_append] at hpos
      omega
    have hget : (frameBytes h p)[pos] = (trailerOf (crc32Frame h p))[pos - (h ++ p).length] :=
      List.getElem_append_right (not_lt.1 hin)
    exact spoiledFrame_of_trailer hbody (List.length_set ..) fun heq => hx ((eq_getElem_of_set_eq htrailer heq).trans hget.symm)

/-! ## The flipped bit -/

theorem xor_twoPow_ne (b : Byte) {bit : Nat} (hbit : bit < 8) : b ^^^ BitVec.twoPow 8 bit ≠ b := by
  intro h
  have hbit' := congrArg (fun x : Byte => x.getLsbD bit) h
  simp [hbit] at hbit'

theorem modify_eq_set_getElem {l : List Byte} {i : Nat} (f : Byte → Byte) (hi : i < l.length) : l.modify i f = l.set i (f l[i]) := by
  rw [List.modify_eq_set_getElem?, List.getElem?_eq_getElem hi]
  rfl

/-- Settles O30: the flipped frame is spoiled; both frames have the same lengths, so the decoder goes through the same states. -/
theorem singleBitErrorsAreRejected : Obligations.SingleBitErrorsAreRejected := by
  intro s h p pos bit hs hd hbody h4 ho ho' hpos hbit
  have hflip := modify_eq_set_getElem (· ^^^ BitVec.twoPow 8 bit) hpos
  obtain ⟨h', p', b0, b1, b2, b3, hbytes, hbody', hh, hp, hcrc⟩ :=
    spoiledFrame_set hbody h4 ho ho' hpos (xor_twoPow_ne _ hbit)
  rw [hflip, hbytes]
  refine ⟨fun k hk hlen => ?_, ?_⟩
  · rw [frameBytes_length] at hlen
    obtain ⟨u, hu, hdu⟩ := feed_frame_dstate hs hd hbody' b0 b1 b2 b3 hk (by rwa [hh, hp])
    obtain ⟨v, hv, hdv⟩ := feed_frame_dstate hs hd hbody _ _ _ _ hk hlen
    exact ⟨u, v, hu, hv, by rw [hdu, hdv, hh, hp]⟩
  · obtain ⟨-, t, ht, -, -, -, -, -, -, -, -, -, -, -, -, -, -, -, hmismatch⟩ :=
      framedBytesAreDecidedAtTheLastTrailerByte s h' p' b0 b1 b2 b3 hs hd hbody'
    obtain ⟨hresult, -, -, hcount⟩ := hmismatch hcrc
    exact ⟨t, ht, hresult, hcount⟩

end Sys2Proof.Machine
end
